-- ==== Sys2Proof/Word.lean ====
section
/-! DEFINITION. The two word types of the core (spec/00_scope.md R7, R8): a byte has 8 bits, a word 16. -/

namespace Sys2Proof

/-- XLEN8: the width of a general register and of every memory access (R7, R67). -/
abbrev Byte := BitVec 8

/-- XLEN16: the width of SP, PC, a register pair and an address (R7). -/
abbrev Word := BitVec 16

end Sys2Proof
end

