-- ==== Sys2Proof/Config.lean ====
section
/-! DEFINITION. What one machine fixes for a whole run: the OPEN parameters of spec/00_scope.md R7 that an instruction,
the map or a bank switch depends on. They stand in State (no step changes them), so that a statement over every state
holds for every value of them. -/

namespace Sys2Proof

/-- The OPEN parameters of R7 (D10, D13, D17). -/
structure Params where
  /-- ROM_SIZE: the length of the ROM array in bytes. -/
  romSize : Nat
  /-- WRAM_BANKS: how many 4 KiB banks the working-RAM array has. -/
  wramBanks : Nat
  /-- ICYC_ADD_SP: the internal cycles of `ADD SP,e8`. -/
  icycAddSp : Nat
  /-- ICYC_LD_HL_SP: the internal cycles of `LD HL,SP+e8`. -/
  icycLdHlSp : Nat
deriving DecidableEq, Repr

/-- The parameters of `State.reset`: R7's defaults where it gives one (WRAM_BANKS 8, ICYC_ADD_SP 2,
ICYC_LD_HL_SP 1); ROM_SIZE has none and is the least legal size. DESIGN CHOICE, unsafe (log 6). -/
def Params.default : Params :=
  { romSize := 32768, wramBanks := 8, icycAddSp := 2, icycLdHlSp := 1 }

/-- What R7 demands of the parameters (ROM_SIZE also by R272 and D13). -/
abbrev Params.legal (p : Params) : Prop :=
  32768 ≤ p.romSize ∧ p.romSize ≤ 8388608 ∧ p.romSize % 16384 = 0 ∧ 2 ≤ p.wramBanks

end Sys2Proof
end

