-- ==== Sys2Proof/Machine/State.lean ====
section
/-! DEFINITION. The state of the core (spec/10_state.md R10), as plain data, why a step can stop, and the state after
reset. -/

namespace Sys2Proof.Machine

/-- The seven 8-bit general registers (R11). -/
structure Regs where
  a : Byte
  b : Byte
  c : Byte
  d : Byte
  e : Byte
  h : Byte
  l : Byte
deriving DecidableEq, Repr

/-- The four condition flags, stored as booleans (R12): zero, subtract, half-carry, carry. -/
structure Flags where
  z : Bool
  n : Bool
  h : Bool
  c : Bool
deriving DecidableEq, Repr

/-- The seven backing byte arrays (R30), the only store of memory contents. -/
inductive ArrayId where
  | rom | vram | eram | wram | oam | io | hram
deriving DecidableEq, Repr

/-- The contents of one backing array: (offset, byte) pairs, offsets strictly rising, and no byte equal to what an unlisted
offset reads as (`Memory.wf` in Memory.lean). The key is the offset in the array, not an address, because several addresses
can show one byte (R54). -/
abbrev Memory := List Host.Cell

/-- The bus: the arrays (R30), and the two bank indices from which the indirection table `map` is computed (R31, R32). -/
structure Bus where
  rom : Memory
  vram : Memory
  eram : Memory
  wram : Memory
  oam : Memory
  io : Memory
  hram : Memory
  romBank : Nat
  wramBank : Nat
deriving DecidableEq, Repr

/-- The two kinds of bus access (R271). -/
inductive AccessKind where
  | read | write
deriving DecidableEq, Repr

/-- A reportable condition that a state can hold (R33). `NotSpecified`, the third, ends the run (R273): it is a `Refusal`, and
no state follows it (log 2). -/
inductive Event where
  /-- `UnmappedAccess(kind, addr)` (R271): recorded by every access to the unusable range; does not end a step. -/
  | unmappedAccess (kind : AccessKind) (addr : Word)
  /-- `UnknownOpcode(op, addr)` (R270): recorded by a step whose opcode is of class A or I. -/
  | unknownOpcode (op : Byte) (addr : Word)
deriving DecidableEq, Repr

/-- The state (R10), and the parameters of R7 that a run holds fixed. -/
structure State where
  /-- A B C D E H L (R11) -/
  r : Regs
  /-- F.Z F.N F.H F.C (R12) -/
  f : Flags
  /-- the stack pointer (R14) -/
  sp : Word
  /-- the program counter (R15) -/
  pc : Word
  /-- the per-step cycle counter (R29); after a step, what `step()` returns -/
  cycles : Nat
  /-- arrays and map (R30 to R32) -/
  bus : Bus
  /-- the record of reportable conditions, oldest first (R33) -/
  events : List Event
  /-- the OPEN parameters of R7 -/
  params : Params
deriving DecidableEq, Repr

/-- Why the machine stops with a fault. No step raises one: `UnknownOpcode` and `UnmappedAccess` are recorded and the machine
goes on (R270, R271, R278, R291). -/
inductive Fault where
  /-- `RomSizeOutOfRange` (R272): raised by `construct` alone, for a ROM image shorter than 32768 or longer than 8388608
  bytes. Safe: the spec says no core exists then. -/
  | romSizeOutOfRange (size : Nat)
deriving DecidableEq, Repr

/-- Why the model gives no next state. -/
inductive Refusal where
  /-- Raised by an arm of `exec` that has no meaning yet; no arm is left that raises it. Safe. -/
  | notModelled (mnemonic : String)
  /-- `NotSpecified(op)` (R240, R273, D5): raised by every instruction of class U. Safe: the spec gives it no meaning. -/
  | notSpecified (op : Byte)
  /-- Raised by `step` if no row of the opcode table matched; no opcode does that (R96, theorem `rowOf_isSome`). Safe. -/
  | noRow (op : Byte)
  /-- Raised by a collaborator's bank-switch call whose index is outside the array (R59, D12). Safe: the spec gives the
  collaborator no such move. -/
  | illegalBankIndex (n : Nat)
deriving DecidableEq, Repr

/-- The state right after construction, the core's only reset (R300, R301, R39), for one choice of the open parameters:
every register, flag, SP and PC 0 (RESET_REGS, log 4), nothing listed in any array (ROM_IMAGE and RAM_INIT, log 3), both
switchable windows on bank 0 (ROMX_BANK_RESET and WRAMX_BANK_RESET, log 5). DESIGN CHOICE, unsafe. `events` is empty as
R38 says. It is one case of `construct` (theorem `construct_default`). -/
def State.reset : State :=
  { r := { a := 0, b := 0, c := 0, d := 0, e := 0, h := 0, l := 0 }
    f := { z := false, n := false, h := false, c := false }
    sp := 0
    pc := 0
    cycles := 0
    bus := { rom := [], vram := [], eram := [], wram := [], oam := [], io := [], hram := [], romBank := 0, wramBank := 0 }
    events := []
    params := Params.default }

end Sys2Proof.Machine
end

