-- ==== Sys2Proof/Machine/Flags.lean ====
section
/-! DEFINITION. Every flag computation the spec gives, as pure functions on values: the two 8-bit adders (R140, R141), the
logic flags (R147 to R149), the 16-bit adder (R170), the stack-pointer adder (R171), and the packing of the flags into the
low byte of AF (R16, R17). Results are computed over the integers and narrowed at the end (R8). -/

namespace Sys2Proof.Machine

/-- `add8(a, b, c)` (R140): result and flags. -/
def add8 (a b : Byte) (c : Bool) : Byte × Flags :=
  let sum := a.toNat + b.toNat + c.toNat
  let res := BitVec.ofNat 8 sum
  (res,
    { z := decide (res = 0)
      n := false
      h := decide (a.toNat % 16 + b.toNat % 16 + c.toNat > 15)
      c := decide (sum > 255) })

/-- `sub8(a, b, c)` (R141): result and flags; the carry is a borrow, "computed before masking". -/
def sub8 (a b : Byte) (c : Bool) : Byte × Flags :=
  let res := BitVec.ofInt 8 ((a.toNat : Int) - (b.toNat : Int) - (c.toNat : Int))
  (res,
    { z := decide (res = 0)
      n := true
      h := decide (a.toNat % 16 < b.toNat % 16 + c.toNat)
      c := decide (a.toNat < b.toNat + c.toNat) })

/-- The flags of `AND` (`h` true, R147) and of `XOR` and `OR` (`h` false, R148, R149) for a result. -/
def logicFlags (h : Bool) (res : Byte) : Flags :=
  { z := decide (res = 0), n := false, h := h, c := false }

/-- `HL + v` (R170): the result, and the flags after it; the zero flag is the one from before. -/
def add16 (hl v : Word) (f : Flags) : Word × Flags :=
  let sum := hl.toNat + v.toNat
  (BitVec.ofNat 16 sum,
    { f with n := false, h := decide (hl.toNat % 4096 + v.toNat % 4096 > 0x0FFF), c := decide (sum > 0xFFFF) })

/-- `sext_16(v)`: the word with the same signed value as a byte (R8, R94). -/
def sext16 (n : Byte) : Word := n.signExtend 16

/-- `spadd(n)` (R171): "the *unsigned low byte* of SP plus the *unsigned* immediate byte" makes the flags, the sign-extended
displacement makes the result; Z is "forced false" and N is cleared (D18). -/
def spAdd (sp : Word) (n : Byte) : Word × Flags :=
  (sp + sext16 n,
    { z := false
      n := false
      h := decide (sp.toNat % 16 + n.toNat % 16 > 0x0F)
      c := decide (sp.toNat % 256 + n.toNat > 0xFF) })

/-- The flag byte `F = AF[7:0]`: flags in bits 7, 6, 5, 4, and "bits 3-0 are always zero on read" (R16, R18). -/
def Flags.pack (f : Flags) : Byte :=
  BitVec.ofBool f.z ++ BitVec.ofBool f.n ++ BitVec.ofBool f.h ++ BitVec.ofBool f.c ++ 0#4

/-- The flags of a flag byte; its bits 3-0 are "ignored on write" (R17). -/
def Flags.unpack (v : Byte) : Flags :=
  { z := v.getLsbD 7, n := v.getLsbD 6, h := v.getLsbD 5, c := v.getLsbD 4 }

end Sys2Proof.Machine
end

