-- ==== Sys2Proof/Machine/Memory.lean ====
section
/-! DEFINITION. The contents of a backing array as a canonical sparse list (spec/10_state.md R30): reading and writing one
byte, and the form. -/

namespace Sys2Proof.Machine

/-- What an offset that no entry lists reads as: the one value this model gives to ROM_IMAGE and RAM_INIT where nothing has
been written (R39, D16: open). DESIGN CHOICE, unsafe (log 3). -/
def Memory.unlisted : Byte := 0

/-- The byte at offset `k`. -/
def Memory.read (k : Nat) : Memory → Byte
  | [] => Memory.unlisted
  | (j, v) :: m => if j = k then v else Memory.read k m

/-- The array with `v` at offset `k` and every other byte as before, in canonical form. -/
def Memory.write (k : Nat) (v : Byte) : Memory → Memory
  | [] => if v = Memory.unlisted then [] else [(k, v)]
  | (j, w) :: m =>
    if k < j then (if v = Memory.unlisted then (j, w) :: m else (k, v) :: (j, w) :: m)
    else if k = j then (if v = Memory.unlisted then m else (k, v) :: m)
    else (j, w) :: Memory.write k v m

/-- Offsets strictly rising from `lo` on, all below `size`, and no byte equal to `Memory.unlisted`. -/
def Memory.wfFrom (lo size : Nat) : Memory → Bool
  | [] => true
  | (k, v) :: m => decide (lo ≤ k) && decide (k < size) && !(v == Memory.unlisted) && Memory.wfFrom (k + 1) size m

/-- The canonical form of an array of `size` bytes: equal contents are equal lists. -/
def Memory.wf (size : Nat) (m : Memory) : Bool := Memory.wfFrom 0 size m

/-- The contents of an array filled from a list of bytes whose first byte lies at offset `k`. -/
def Memory.ofBytesFrom (k : Nat) : List Byte → Memory
  | [] => []
  | v :: vs => if v = Memory.unlisted then Memory.ofBytesFrom (k + 1) vs else (k, v) :: Memory.ofBytesFrom (k + 1) vs

/-- The contents of an array filled from a list of bytes (R301: `rom <- ROM_IMAGE`). -/
def Memory.ofBytes (vs : List Byte) : Memory := Memory.ofBytesFrom 0 vs

/-- The contents of a backing array. -/
def Bus.array (b : Bus) : ArrayId → Memory
  | .rom => b.rom | .vram => b.vram | .eram => b.eram | .wram => b.wram
  | .oam => b.oam | .io => b.io | .hram => b.hram

/-- The bus with the contents of one backing array replaced. -/
def Bus.setArray (b : Bus) (arr : ArrayId) (m : Memory) : Bus :=
  match arr with
  | .rom => { b with rom := m }
  | .vram => { b with vram := m }
  | .eram => { b with eram := m }
  | .wram => { b with wram := m }
  | .oam => { b with oam := m }
  | .io => { b with io := m }
  | .hram => { b with hram := m }

end Sys2Proof.Machine
end

