-- ==== Sys2Proof/Machine/Map.lean ====
section
/-! DEFINITION. The address map and the indirection table (spec/20_memory.md R51 to R58). -/

namespace Sys2Proof.Machine

/-- The twelve fixed regions of the address space (R51). -/
inductive Region where
  | rom0 | romx | vram | eram | wram0 | wramx | echo0 | echox | oam | unusable | io | hram
deriving DecidableEq, Repr

/-- The first address of a region (R51). -/
def Region.first : Region → Nat
  | .rom0 => 0x0000 | .romx => 0x4000 | .vram => 0x8000 | .eram => 0xA000 | .wram0 => 0xC000 | .wramx => 0xD000
  | .echo0 => 0xE000 | .echox => 0xF000 | .oam => 0xFE00 | .unusable => 0xFEA0 | .io => 0xFF00 | .hram => 0xFF80

/-- The size of a region in bytes (R51). -/
def Region.size : Region → Nat
  | .rom0 => 0x4000 | .romx => 0x4000 | .vram => 0x2000 | .eram => 0x2000 | .wram0 => 0x1000 | .wramx => 0x1000
  | .echo0 => 0x1000 | .echox => 0x0E00 | .oam => 0x00A0 | .unusable => 0x0060 | .io => 0x0080 | .hram => 0x0080

/-- The region of an address (R51). -/
def regionOf (a : Word) : Region :=
  let n := a.toNat
  if n < 0x4000 then .rom0
  else if n < 0x8000 then .romx
  else if n < 0xA000 then .vram
  else if n < 0xC000 then .eram
  else if n < 0xD000 then .wram0
  else if n < 0xE000 then .wramx
  else if n < 0xF000 then .echo0
  else if n < 0xFE00 then .echox
  else if n < 0xFEA0 then .oam
  else if n < 0xFF00 then .unusable
  else if n < 0xFF80 then .io
  else .hram

/-- The backing array a region is mapped onto; the unusable range has none (R51, R52). -/
def Region.array : Region → Option ArrayId
  | .rom0 => some .rom | .romx => some .rom
  | .vram => some .vram | .eram => some .eram
  | .wram0 => some .wram | .wramx => some .wram | .echo0 => some .wram | .echox => some .wram
  | .oam => some .oam | .unusable => none | .io => some .io | .hram => some .hram

/-- The distance between two banks of the array: `region_size`, but for the echo of the switchable window the "fixed
working-RAM bank size (4 KiB)" and not the echo's shorter size (R55). -/
def Region.stride : Region → Nat
  | .echox => 0x1000
  | .rom0 => Region.size .rom0 | .romx => Region.size .romx | .vram => Region.size .vram | .eram => Region.size .eram
  | .wram0 => Region.size .wram0 | .wramx => Region.size .wramx | .echo0 => Region.size .echo0 | .oam => Region.size .oam
  | .unusable => Region.size .unusable | .io => Region.size .io | .hram => Region.size .hram

/-- One slot of the table: "empty ('unmapped') or a pointer to a specific byte inside one of seven backing byte arrays"
(R31). -/
abbrev Slot := Option (ArrayId × Nat)

/-- What `map_region` writes in the slot `offset` bytes into a region, for a bank index (R55). -/
def Region.slot (g : Region) (bank offset : Nat) : Slot :=
  match g.array with
  | none => none
  | some arr => some (arr, bank * g.stride + offset)

/-- The bank index a region shows: the switchable windows follow `rom_bank` and `wram_bank`, the echo of the switchable
window follows its window (R54, R58), every other region shows bank 0 (R56). -/
def Bus.bankOf (b : Bus) : Region → Nat
  | .romx => b.romBank
  | .wramx => b.wramBank
  | .echox => b.wramBank
  | .rom0 => 0 | .vram => 0 | .eram => 0 | .wram0 => 0 | .echo0 => 0 | .oam => 0 | .unusable => 0 | .io => 0 | .hram => 0

/-- The indirection table `map` at an address (R31, R53), computed from the two bank indices (R32). DEDUCED (log 7). -/
def Bus.map (b : Bus) (a : Word) : Slot :=
  let g := regionOf a
  g.slot (b.bankOf g) (a.toNat - g.first)

/-- The length of a backing array (R7, R10). -/
def ArrayId.size (p : Params) : ArrayId → Nat
  | .rom => p.romSize | .vram => 8192 | .eram => 8192 | .wram => p.wramBanks * 4096
  | .oam => 160 | .io => 128 | .hram => 128

/-- How many ROM banks there are (R59). -/
def romBanks (p : Params) : Nat := p.romSize / 0x4000

/-- The byte a slot of the table points to; 0 for an unmapped slot (R60). -/
def Bus.byteOfSlot (b : Bus) : Slot → Byte
  | none => 0
  | some (arr, off) => (b.array arr).read off

/-- The byte the bus shows at an address, without a cycle and without an event ("`mem[a]`"; R53, R60). -/
def Bus.byteAt (b : Bus) (a : Word) : Byte := b.byteOfSlot (b.map a)

/-- The bus after a byte is stored at an address; unchanged where the slot is unmapped (R61). -/
def Bus.store (b : Bus) (a : Word) (v : Byte) : Bus :=
  match b.map a with
  | none => b
  | some (arr, off) => b.setArray arr ((b.array arr).write off v)

end Sys2Proof.Machine
end

