-- ==== Sys2Proof/Machine/Ops.lean ====
section
/-! DEFINITION. The named operations over registers, the bus and the conditions: setters, the bus primitives and the fetch
primitives (spec/20_memory.md R60 to R63), internal cycles (R124), recording a condition (R33), `UnknownOpcode` (R270) and the
refusal `NotSpecified` (R273). -/

namespace Sys2Proof.Machine

/-! ## Byte order of a word (R8, R13) -/

/-- `v[15:8]` -/
def hiByte (v : Word) : Byte := v.extractLsb' 8 8
/-- `v[7:0]` -/
def loByte (v : Word) : Byte := v.extractLsb' 0 8
/-- `hi ++ lo`, the word whose bits 15:8 are `hi` -/
def wordOf (hi lo : Byte) : Word := hi ++ lo

/-! ## Setters -/

/-- A <- v -/
def State.setA (s : State) (v : Byte) : State := { s with r := { s.r with a := v } }
/-- the four flags <- f -/
def State.setFlags (s : State) (f : Flags) : State := { s with f := f }
/-- SP <- v (R14) -/
def State.setSp (s : State) (v : Word) : State := { s with sp := v }
/-- PC <- v (R15) -/
def State.setPc (s : State) (v : Word) : State := { s with pc := v }
/-- cycles <- n (R29) -/
def State.setCycles (s : State) (n : Nat) : State := { s with cycles := n }
/-- arrays and map <- b -/
def State.setBus (s : State) (b : Bus) : State := { s with bus := b }
/-- the seven registers <- r -/
def State.setRegs (s : State) (r : Regs) : State := { s with r := r }

/-- `Internal(n)` (R124): n cycles without a bus access. -/
def State.internal (s : State) (n : Nat) : State := s.setCycles (s.cycles + n)

/-- Record a condition, after those already recorded (R33). -/
def State.emit (s : State) (e : Event) : State := { s with events := s.events ++ [e] }

/-! ## The 16-bit views of register pairs (R13) -/

/-- `BC = B ++ C` -/
def Regs.bc (r : Regs) : Word := wordOf r.b r.c
/-- `DE = D ++ E` -/
def Regs.de (r : Regs) : Word := wordOf r.d r.e
/-- `HL = H ++ L` -/
def Regs.hl (r : Regs) : Word := wordOf r.h r.l
/-- BC <- v -/
def Regs.setBc (r : Regs) (v : Word) : Regs := { r with b := hiByte v, c := loByte v }
/-- DE <- v -/
def Regs.setDe (r : Regs) (v : Word) : Regs := { r with d := hiByte v, e := loByte v }
/-- HL <- v -/
def Regs.setHl (r : Regs) (v : Word) : Regs := { r with h := hiByte v, l := loByte v }

/-! ## The bus primitives (R60, R61) -/

/-- `MemRead(a, 1)` (R60): one cycle; an unmapped slot records `UnmappedAccess(read, a)` and reads 0. -/
def State.busRead (s : State) (a : Word) : Byte × State :=
  let s1 := s.setCycles (s.cycles + 1)
  match s.bus.map a with
  | none => (0, s1.emit (.unmappedAccess .read a))
  | some _ => (s.bus.byteAt a, s1)

/-- `MemWrite(a, 1, v)` (R61): one cycle; an unmapped slot records `UnmappedAccess(write, a)` and the byte is discarded. -/
def State.busWrite (s : State) (a : Word) (v : Byte) : State :=
  let s1 := s.setCycles (s.cycles + 1)
  match s.bus.map a with
  | none => s1.emit (.unmappedAccess .write a)
  | some _ => s1.setBus (s.bus.store a v)

/-! ## The fetch primitives (R62, R63) -/

/-- `Fetch8()` (R62): the byte at PC, and PC one on, modulo 65536. -/
def State.fetch8 (s : State) : Byte × State :=
  let q := s.busRead s.pc
  (q.1, q.2.setPc (s.pc + 1))

/-- `Fetch16()` (R63): two bytes at PC, low byte first. -/
def State.fetch16 (s : State) : Word × State :=
  let lo := s.fetch8
  let hi := lo.2.fetch8
  (wordOf hi.1 lo.1, hi.2)

/-! ## Conditions that end a step -/

/-- TAKING THE ONE EXCEPTION: `raise UnknownOpcode(op, addr)` (R270, R210). It comes after the opcode fetch, so the address the
opcode was fetched from is one before PC, and PC stands one past it. "No state is saved, no mode changes, no mask changes, no
stack is touched, control goes nowhere" (R277): the condition is recorded and nothing else happens (R125 case 2). There is no
return from it: "execution continues at `PC`, one byte past the bad opcode" (R278). A next state and not a stop: log 1. -/
def State.raiseUnknownOpcode (s : State) (op : Byte) : State :=
  s.emit (.unknownOpcode op (s.pc - 1))

/-- `refuse NotSpecified(op)` (R240, R273): "the run is refused", so no state follows. -/
def refuseNotSpecified (op : Byte) : Host.Outcome State Fault Refusal := .refused (.notSpecified op)

end Sys2Proof.Machine
end

