-- ==== Sys2Proof/Syntax.lean ====
section
/-! DEFINITION. The instruction set as syntax: one constructor for each of the 74 rows of spec/opcode_table.json, in the
table's order (classes P, A, U; the class I rows last). Operand fields are those the core fetches: a row of class A, I or U
has the opcode byte alone (R105, R210, R240), so the immediates it has in the standard map are no part of it. -/

namespace Sys2Proof

/-- An `r8` field, in the order of its values 0 to 7 (R20, R92). `mHL` is "memory at HL", written `[HL]`. -/
inductive R8 where
  | b | c | d | e | h | l | mHL | a
deriving DecidableEq, Repr

/-- An `r16` field in Normal mode, values 0 to 3 (R22, R92). -/
inductive R16 where
  | bc | de | hl | sp
deriving DecidableEq, Repr

/-- An `r16` field in Stack mode, values 0 to 3 (R23, R92). -/
inductive R16Stk where
  | bc | de | hl | af
deriving DecidableEq, Repr

/-- An `r16` field in Memory mode, values 0 to 3 (R24, R92): `[BC]`, `[DE]`, `[HL+]`, `[HL-]`. -/
inductive R16Mem where
  | bc | de | hlInc | hlDec
deriving DecidableEq, Repr

/-- The condition field of the absent conditional jumps, calls and returns, values 0 to 3 (R216). -/
inductive Cond where
  | nz | z | nc | c
deriving DecidableEq, Repr

/-- The instructions. -/
inductive Instr where
  -- block 0
  | nop
  | ldR16Imm16 (p : R16) (v : Word)
  | ldR16memA (p : R16Mem)
  | incR16 (p : R16)
  | incR8 (r : R8)
  | decR8 (r : R8)
  | ldR8Imm8 (r : R8) (n : Byte)
  | rlca
  | ldA16Sp
  | addHlR16 (p : R16)
  | ldAR16mem (p : R16Mem)
  | decR16 (p : R16)
  | rrca
  | stop
  | rla
  | jrE8
  | rra
  | jrCcE8 (cc : Cond)
  | daa
  | cpl
  | scf
  | ccf
  -- block 1
  | halt
  | ldR8R8 (dst src : R8)
  -- block 2
  | addAR8 (r : R8)
  | adcAR8 (r : R8)
  | subAR8 (r : R8)
  | sbcAR8 (r : R8)
  | andAR8 (r : R8)
  | xorAR8 (r : R8)
  | orAR8 (r : R8)
  | cpAR8 (r : R8)
  -- block 3
  | retCc (cc : Cond)
  | popR16stk (p : R16Stk)
  | jpCcA16 (cc : Cond)
  | jpA16
  | callCcA16 (cc : Cond)
  | pushR16stk (p : R16Stk)
  | addAImm8 (n : Byte)
  | rstTgt (t : BitVec 3)
  | ret
  | prefixCb
  | callA16
  | adcAImm8 (n : Byte)
  | subAImm8 (n : Byte)
  | reti
  | sbcAImm8 (n : Byte)
  | ldhA8A (n : Byte)
  | ldhCA
  | andAImm8 (n : Byte)
  | addSpE8 (n : Byte)
  | jpHl
  | ldA16A
  | xorAImm8 (n : Byte)
  | ldhAA8 (n : Byte)
  | ldhAC
  | di
  | orAImm8 (n : Byte)
  | ldHlSpE8 (n : Byte)
  | ldSpHl
  | ldAA16
  | ei
  | cpAImm8
  -- the eleven values with no instruction (R230)
  | illegalD3
  | illegalDB
  | illegalDD
  | illegalE3
  | illegalE4
  | illegalEB
  | illegalEC
  | illegalED
  | illegalF4
  | illegalFC
  | illegalFD
deriving DecidableEq, Repr

end Sys2Proof
end

