-- ==== Sys2Proof/Machine/Operands.lean ====
section
/-! DEFINITION. Every operand form (spec/10_state.md R16 to R24, spec/43_load8.md R180): indexed 8-bit access, the three modes
of a register pair, the AF view, the high page. -/

namespace Sys2Proof.Machine

/-- `r8[i]` (R20): index 6 is `MemRead(HL, 1)`, every other index a register and nothing else. -/
def State.r8Read (s : State) : R8 → Byte × State
  | .b => (s.r.b, s)
  | .c => (s.r.c, s)
  | .d => (s.r.d, s)
  | .e => (s.r.e, s)
  | .h => (s.r.h, s)
  | .l => (s.r.l, s)
  | .mHL => s.busRead s.r.hl
  | .a => (s.r.a, s)

/-- `r8[i] <- v` (R21): index 6 is `MemWrite(HL, 1, v)` and writes no register. -/
def State.r8Write (s : State) (i : R8) (v : Byte) : State :=
  match i with
  | .b => s.setRegs { s.r with b := v }
  | .c => s.setRegs { s.r with c := v }
  | .d => s.setRegs { s.r with d := v }
  | .e => s.setRegs { s.r with e := v }
  | .h => s.setRegs { s.r with h := v }
  | .l => s.setRegs { s.r with l := v }
  | .mHL => s.busWrite s.r.hl v
  | .a => s.setRegs { s.r with a := v }

/-- `r16[i]` in Normal mode (R22). -/
def State.r16Read (s : State) : R16 → Word
  | .bc => s.r.bc
  | .de => s.r.de
  | .hl => s.r.hl
  | .sp => s.sp

/-- `r16[i] <- v` in Normal mode (R22). -/
def State.r16Write (s : State) (i : R16) (v : Word) : State :=
  match i with
  | .bc => s.setRegs (s.r.setBc v)
  | .de => s.setRegs (s.r.setDe v)
  | .hl => s.setRegs (s.r.setHl v)
  | .sp => s.setSp v

/-- The AF view (R16): "synthesized on demand as `(A << 8) | packed_flags`". -/
def State.af (s : State) : Word := wordOf s.r.a s.f.pack

/-- AF <- v (R17). -/
def State.setAf (s : State) (v : Word) : State := (s.setA (hiByte v)).setFlags (Flags.unpack (loByte v))

/-- `r16stk[i]` (R23). -/
def State.r16stkRead (s : State) : R16Stk → Word
  | .bc => s.r.bc
  | .de => s.r.de
  | .hl => s.r.hl
  | .af => s.af

/-- `r16stk[i] <- v` (R23). -/
def State.r16stkWrite (s : State) (i : R16Stk) (v : Word) : State :=
  match i with
  | .bc => s.setRegs (s.r.setBc v)
  | .de => s.setRegs (s.r.setDe v)
  | .hl => s.setRegs (s.r.setHl v)
  | .af => s.setAf v

/-- `r16mem(i)` (R24): the address, HL before any change, and the state with HL one on (`[HL+]`) or one back (`[HL-]`). -/
def State.r16mem (s : State) : R16Mem → Word × State
  | .bc => (s.r.bc, s)
  | .de => (s.r.de, s)
  | .hlInc => (s.r.hl, s.setRegs (s.r.setHl (s.r.hl + 1)))
  | .hlDec => (s.r.hl, s.setRegs (s.r.setHl (s.r.hl - 1)))

/-- The address `0xFF00 + n` of the high page (R94, R78). -/
def highPage (n : Byte) : Word := wordOf 0xFF n

end Sys2Proof.Machine
end

