-- ==== Sys2Proof/Machine/Alu16.lean ====
section
/-! DEFINITION. Sixteen-bit add and stack-pointer-plus-immediate (spec/42_alu16.md R170 to R173). -/

namespace Sys2Proof.Machine

/-- `ADD HL,r16` (R170): flags from HL before it is written, Z kept, one internal cycle. -/
def execAddHlR16 (p : R16) (s : State) : Host.Outcome State Fault Refusal :=
  let q := add16 s.r.hl (s.r16Read p) s.f
  .next (((s.setFlags q.2).setRegs (s.r.setHl q.1)).internal 1)

/-- `ADD SP,e8` (R172): ICYC_ADD_SP internal cycles. -/
def execAddSpE8 (n : Byte) (s : State) : Host.Outcome State Fault Refusal :=
  let q := spAdd s.sp n
  .next (((s.setSp q.1).setFlags q.2).internal s.params.icycAddSp)

/-- `LD HL,SP+e8` (R173): SP is not changed; ICYC_LD_HL_SP internal cycles. -/
def execLdHlSpE8 (n : Byte) (s : State) : Host.Outcome State Fault Refusal :=
  let q := spAdd s.sp n
  .next (((s.setRegs (s.r.setHl q.1)).setFlags q.2).internal s.params.icycLdHlSp)

end Sys2Proof.Machine
end

