-- ==== Sys2Proof/Machine/Alu8.lean ====
section
/-! DEFINITION. Eight-bit arithmetic and logic (spec/41_alu8.md R142 to R158). The second operand is read once, before A is
written (R142). -/

namespace Sys2Proof.Machine

/-! ## The seven operations on A, for a second operand already read (R140, R141, R147 to R149) -/

/-- `(A, F) <- add8(A, x, c)` -/
def State.aluAdd (s : State) (x : Byte) (c : Bool) : State :=
  let q := add8 s.r.a x c
  (s.setA q.1).setFlags q.2

/-- `(A, F) <- sub8(A, x, c)` -/
def State.aluSub (s : State) (x : Byte) (c : Bool) : State :=
  let q := sub8 s.r.a x c
  (s.setA q.1).setFlags q.2

/-- `A <- v` with the logic flags: H true for `AND`, false for `XOR` and `OR` -/
def State.aluLogic (s : State) (v : Byte) (h : Bool) : State :=
  (s.setA v).setFlags (logicFlags h v)

/-! ## Register-operand forms (R143 to R149) -/

/-- `ADD A,r8` (R143). -/
def execAddAR8 (r : R8) (s : State) : Host.Outcome State Fault Refusal :=
  let q := s.r8Read r
  .next (q.2.aluAdd q.1 false)

/-- `ADC A,r8` (R144): the carry flag is read before it is written. -/
def execAdcAR8 (r : R8) (s : State) : Host.Outcome State Fault Refusal :=
  let q := s.r8Read r
  .next (q.2.aluAdd q.1 q.2.f.c)

/-- `SUB A,r8` (R145). -/
def execSubAR8 (r : R8) (s : State) : Host.Outcome State Fault Refusal :=
  let q := s.r8Read r
  .next (q.2.aluSub q.1 false)

/-- `SBC A,r8` (R146): the carry flag is read before it is written. -/
def execSbcAR8 (r : R8) (s : State) : Host.Outcome State Fault Refusal :=
  let q := s.r8Read r
  .next (q.2.aluSub q.1 q.2.f.c)

/-- `AND A,r8` (R147). -/
def execAndAR8 (r : R8) (s : State) : Host.Outcome State Fault Refusal :=
  let q := s.r8Read r
  .next (q.2.aluLogic (q.2.r.a &&& q.1) true)

/-- `XOR A,r8` (R148). -/
def execXorAR8 (r : R8) (s : State) : Host.Outcome State Fault Refusal :=
  let q := s.r8Read r
  .next (q.2.aluLogic (q.2.r.a ^^^ q.1) false)

/-- `OR A,r8` (R149). -/
def execOrAR8 (r : R8) (s : State) : Host.Outcome State Fault Refusal :=
  let q := s.r8Read r
  .next (q.2.aluLogic (q.2.r.a ||| q.1) false)

/-! ## Immediate forms (R150 to R156); the immediate byte has been fetched (log 8) -/

/-- `ADD A,imm8` (R150). -/
def execAddAImm8 (n : Byte) (s : State) : Host.Outcome State Fault Refusal := .next (s.aluAdd n false)

/-- `ADC A,imm8` (R151). -/
def execAdcAImm8 (n : Byte) (s : State) : Host.Outcome State Fault Refusal := .next (s.aluAdd n s.f.c)

/-- `SUB A,imm8` (R152). -/
def execSubAImm8 (n : Byte) (s : State) : Host.Outcome State Fault Refusal := .next (s.aluSub n false)

/-- `SBC A,imm8` (R153). -/
def execSbcAImm8 (n : Byte) (s : State) : Host.Outcome State Fault Refusal := .next (s.aluSub n s.f.c)

/-- `AND A,imm8` (R154). -/
def execAndAImm8 (n : Byte) (s : State) : Host.Outcome State Fault Refusal := .next (s.aluLogic (s.r.a &&& n) true)

/-- `XOR A,imm8` (R155). -/
def execXorAImm8 (n : Byte) (s : State) : Host.Outcome State Fault Refusal := .next (s.aluLogic (s.r.a ^^^ n) false)

/-- `OR A,imm8` (R156). -/
def execOrAImm8 (n : Byte) (s : State) : Host.Outcome State Fault Refusal := .next (s.aluLogic (s.r.a ||| n) false)

/-! ## Increment and decrement (R157, R158) -/

/-- Store a result in the operand, and take Z, N and H from its flags; C "is saved and restored". -/
def State.incDecFinish (s : State) (r : R8) (q : Byte × Flags) : State :=
  let c := s.f.c
  (s.r8Write r q.1).setFlags { q.2 with c := c }

/-- `INC r8` (R157). -/
def execIncR8 (r : R8) (s : State) : Host.Outcome State Fault Refusal :=
  let q := s.r8Read r
  .next (q.2.incDecFinish r (add8 q.1 1 false))

/-- `DEC r8` (R158). -/
def execDecR8 (r : R8) (s : State) : Host.Outcome State Fault Refusal :=
  let q := s.r8Read r
  .next (q.2.incDecFinish r (sub8 q.1 1 false))

end Sys2Proof.Machine
end

