-- ==== Sys2Proof/WellFormed.lean ====
section
/-! DEFINITION. Which terms of `Instr` are instructions. The operand types admit exactly the field values of R92, so one
check is left: `LD r8,r8'` with both fields 6 is not this instruction (R181, R100; its byte 0x76 is HALT's, R217). -/

namespace Sys2Proof

/-- The term stands for an instruction of the opcode map (R97 row 9 "except", R100, R109). -/
def Instr.wellFormed : Instr → Bool
  | .ldR8R8 dst src => !(dst == .mHL && src == .mHL)
  | .nop | .ldR16Imm16 _ _ | .ldR16memA _ | .incR16 _ | .incR8 _ | .decR8 _ | .ldR8Imm8 _ _ | .rlca
  | .ldA16Sp | .addHlR16 _ | .ldAR16mem _ | .decR16 _ | .rrca | .stop | .rla | .jrE8 | .rra | .jrCcE8 _
  | .daa | .cpl | .scf | .ccf | .halt
  | .addAR8 _ | .adcAR8 _ | .subAR8 _ | .sbcAR8 _ | .andAR8 _ | .xorAR8 _ | .orAR8 _ | .cpAR8 _
  | .retCc _ | .popR16stk _ | .jpCcA16 _ | .jpA16 | .callCcA16 _ | .pushR16stk _ | .addAImm8 _ | .rstTgt _
  | .ret | .prefixCb | .callA16 | .adcAImm8 _ | .subAImm8 _ | .reti | .sbcAImm8 _ | .ldhA8A _ | .ldhCA
  | .andAImm8 _ | .addSpE8 _ | .jpHl | .ldA16A | .xorAImm8 _ | .ldhAA8 _ | .ldhAC | .di | .orAImm8 _
  | .ldHlSpE8 _ | .ldSpHl | .ldAA16 | .ei | .cpAImm8
  | .illegalD3 | .illegalDB | .illegalDD | .illegalE3 | .illegalE4 | .illegalEB | .illegalEC | .illegalED
  | .illegalF4 | .illegalFC | .illegalFD => true

end Sys2Proof
end

