-- ==== Sys2Proof/Decode.lean ====
section
/-! DEFINITION. The opcode map (spec/30_encoding.md): the fields of an opcode byte, the table of spec/opcode_table.json
with "first row that matches" (R105, R120), the decoder over bytes, the encoder, and D00's five-strategy search (R95, R98). -/

namespace Sys2Proof

/-! ## The fields of the opcode byte (R91) -/

/-- `block = op[7:6]`. -/
def blockField (op : Byte) : BitVec 2 := op.extractLsb' 6 2
/-- `hi3 = op[5:3]`. -/
def hi3Field (op : Byte) : BitVec 3 := op.extractLsb' 3 3
/-- `lo3 = op[2:0]`. -/
def lo3Field (op : Byte) : BitVec 3 := op.extractLsb' 0 3
/-- `pair = op[5:4]`. -/
def pairField (op : Byte) : BitVec 2 := op.extractLsb' 4 2
/-- `nib = op[3:0]`. -/
def nibField (op : Byte) : BitVec 4 := op.extractLsb' 0 4
/-- The condition field `cc`, bits 4:3, of the absent conditional instructions (R216, R218, R221, R224). -/
def ccField (op : Byte) : BitVec 2 := op.extractLsb' 3 2

/-! ## Field values (R92) -/

/-- The 3-bit index of an `r8` operand (R20, R92). -/
def R8.code : R8 → BitVec 3
  | .b => 0 | .c => 1 | .d => 2 | .e => 3 | .h => 4 | .l => 5 | .mHL => 6 | .a => 7

/-- The `r8` operand of a 3-bit index (R20, R92). -/
def R8.ofCode (k : BitVec 3) : R8 :=
  match k.toNat with
  | 0 => .b | 1 => .c | 2 => .d | 3 => .e | 4 => .h | 5 => .l | 6 => .mHL | _ => .a

/-- The 2-bit index of a Normal-mode pair (R22, R92). -/
def R16.code : R16 → BitVec 2
  | .bc => 0 | .de => 1 | .hl => 2 | .sp => 3

/-- The Normal-mode pair of a 2-bit index (R22, R92). -/
def R16.ofCode (k : BitVec 2) : R16 :=
  match k.toNat with
  | 0 => .bc | 1 => .de | 2 => .hl | _ => .sp

/-- The 2-bit index of a Stack-mode pair (R23, R92). -/
def R16Stk.code : R16Stk → BitVec 2
  | .bc => 0 | .de => 1 | .hl => 2 | .af => 3

/-- The Stack-mode pair of a 2-bit index (R23, R92). -/
def R16Stk.ofCode (k : BitVec 2) : R16Stk :=
  match k.toNat with
  | 0 => .bc | 1 => .de | 2 => .hl | _ => .af

/-- The 2-bit index of a Memory-mode operand (R24, R92). -/
def R16Mem.code : R16Mem → BitVec 2
  | .bc => 0 | .de => 1 | .hlInc => 2 | .hlDec => 3

/-- The Memory-mode operand of a 2-bit index (R24, R92). -/
def R16Mem.ofCode (k : BitVec 2) : R16Mem :=
  match k.toNat with
  | 0 => .bc | 1 => .de | 2 => .hlInc | _ => .hlDec

/-- The 2-bit code of a condition (R216). -/
def Cond.code : Cond → BitVec 2
  | .nz => 0 | .z => 1 | .nc => 2 | .c => 3

/-- The condition of a 2-bit code (R216). -/
def Cond.ofCode (k : BitVec 2) : Cond :=
  match k.toNat with
  | 0 => .nz | 1 => .z | 2 => .nc | _ => .c

/-! ## The opcode table -/

/-- The four classes of an opcode value (R96): P, A, I, U. -/
inductive OpClass where
  | present        -- P: executes
  | absent         -- A: a family D00 says is not implemented
  | noInstruction  -- I: no instruction in the standard map
  | unnamed        -- U: D00 neither describes it nor lists it as missing
deriving DecidableEq, Repr

/-- One row of spec/opcode_table.json (R105): `op & mask = pattern` selects it, the core fetches `length` bytes for it, and
`build op byte2 byte3` is the instruction with its operand fields (a byte the row does not fetch is not looked at). -/
structure OpcodeRow where
  pattern : Byte
  mask : Byte
  length : Nat
  cls : OpClass
  build : Byte → Byte → Byte → Instr

/-- Block 0, `op[7:6] = 00` (R99). -/
def opcodeRowsBlock0 : List OpcodeRow := [
  ⟨0x00, 0xFF, 1, .present, fun _ _ _ => .nop⟩,
  ⟨0x01, 0xCF, 3, .present, fun op lo hi => .ldR16Imm16 (R16.ofCode (pairField op)) (hi ++ lo)⟩,
  ⟨0x02, 0xCF, 1, .present, fun op _ _ => .ldR16memA (R16Mem.ofCode (pairField op))⟩,
  ⟨0x03, 0xCF, 1, .unnamed, fun op _ _ => .incR16 (R16.ofCode (pairField op))⟩,
  ⟨0x04, 0xC7, 1, .present, fun op _ _ => .incR8 (R8.ofCode (hi3Field op))⟩,
  ⟨0x05, 0xC7, 1, .present, fun op _ _ => .decR8 (R8.ofCode (hi3Field op))⟩,
  ⟨0x06, 0xC7, 2, .present, fun op n _ => .ldR8Imm8 (R8.ofCode (hi3Field op)) n⟩,
  ⟨0x07, 0xFF, 1, .absent, fun _ _ _ => .rlca⟩,
  ⟨0x08, 0xFF, 1, .unnamed, fun _ _ _ => .ldA16Sp⟩,
  ⟨0x09, 0xCF, 1, .present, fun op _ _ => .addHlR16 (R16.ofCode (pairField op))⟩,
  ⟨0x0A, 0xCF, 1, .present, fun op _ _ => .ldAR16mem (R16Mem.ofCode (pairField op))⟩,
  ⟨0x0B, 0xCF, 1, .unnamed, fun op _ _ => .decR16 (R16.ofCode (pairField op))⟩,
  ⟨0x0F, 0xFF, 1, .absent, fun _ _ _ => .rrca⟩,
  ⟨0x10, 0xFF, 1, .unnamed, fun _ _ _ => .stop⟩,
  ⟨0x17, 0xFF, 1, .absent, fun _ _ _ => .rla⟩,
  ⟨0x18, 0xFF, 1, .absent, fun _ _ _ => .jrE8⟩,
  ⟨0x1F, 0xFF, 1, .absent, fun _ _ _ => .rra⟩,
  ⟨0x20, 0xE7, 1, .absent, fun op _ _ => .jrCcE8 (Cond.ofCode (ccField op))⟩,
  ⟨0x27, 0xFF, 1, .unnamed, fun _ _ _ => .daa⟩,
  ⟨0x2F, 0xFF, 1, .unnamed, fun _ _ _ => .cpl⟩,
  ⟨0x37, 0xFF, 1, .unnamed, fun _ _ _ => .scf⟩,
  ⟨0x3F, 0xFF, 1, .unnamed, fun _ _ _ => .ccf⟩]

/-- Blocks 1 and 2 (R100, R101). HALT's row stands before that of `LD r8,r8'`, which 0x76 matches too (R105). -/
def opcodeRowsBlocks12 : List OpcodeRow := [
  ⟨0x76, 0xFF, 1, .absent, fun _ _ _ => .halt⟩,
  ⟨0x40, 0xC0, 1, .present, fun op _ _ => .ldR8R8 (R8.ofCode (hi3Field op)) (R8.ofCode (lo3Field op))⟩,
  ⟨0x80, 0xF8, 1, .present, fun op _ _ => .addAR8 (R8.ofCode (lo3Field op))⟩,
  ⟨0x88, 0xF8, 1, .present, fun op _ _ => .adcAR8 (R8.ofCode (lo3Field op))⟩,
  ⟨0x90, 0xF8, 1, .present, fun op _ _ => .subAR8 (R8.ofCode (lo3Field op))⟩,
  ⟨0x98, 0xF8, 1, .present, fun op _ _ => .sbcAR8 (R8.ofCode (lo3Field op))⟩,
  ⟨0xA0, 0xF8, 1, .present, fun op _ _ => .andAR8 (R8.ofCode (lo3Field op))⟩,
  ⟨0xA8, 0xF8, 1, .present, fun op _ _ => .xorAR8 (R8.ofCode (lo3Field op))⟩,
  ⟨0xB0, 0xF8, 1, .present, fun op _ _ => .orAR8 (R8.ofCode (lo3Field op))⟩,
  ⟨0xB8, 0xF8, 1, .unnamed, fun op _ _ => .cpAR8 (R8.ofCode (lo3Field op))⟩]

/-- Block 3, first half (R102). -/
def opcodeRowsBlock3a : List OpcodeRow := [
  ⟨0xC0, 0xE7, 1, .absent, fun op _ _ => .retCc (Cond.ofCode (ccField op))⟩,
  ⟨0xC1, 0xCF, 1, .present, fun op _ _ => .popR16stk (R16Stk.ofCode (pairField op))⟩,
  ⟨0xC2, 0xE7, 1, .absent, fun op _ _ => .jpCcA16 (Cond.ofCode (ccField op))⟩,
  ⟨0xC3, 0xFF, 1, .absent, fun _ _ _ => .jpA16⟩,
  ⟨0xC4, 0xE7, 1, .absent, fun op _ _ => .callCcA16 (Cond.ofCode (ccField op))⟩,
  ⟨0xC5, 0xCF, 1, .present, fun op _ _ => .pushR16stk (R16Stk.ofCode (pairField op))⟩,
  ⟨0xC6, 0xFF, 2, .present, fun _ n _ => .addAImm8 n⟩,
  ⟨0xC7, 0xC7, 1, .absent, fun op _ _ => .rstTgt (hi3Field op)⟩,
  ⟨0xC9, 0xFF, 1, .absent, fun _ _ _ => .ret⟩,
  ⟨0xCB, 0xFF, 1, .absent, fun _ _ _ => .prefixCb⟩,
  ⟨0xCD, 0xFF, 1, .absent, fun _ _ _ => .callA16⟩,
  ⟨0xCE, 0xFF, 2, .present, fun _ n _ => .adcAImm8 n⟩,
  ⟨0xD6, 0xFF, 2, .present, fun _ n _ => .subAImm8 n⟩,
  ⟨0xD9, 0xFF, 1, .absent, fun _ _ _ => .reti⟩,
  ⟨0xDE, 0xFF, 2, .present, fun _ n _ => .sbcAImm8 n⟩]

/-- Block 3, second half (R102). -/
def opcodeRowsBlock3b : List OpcodeRow := [
  ⟨0xE0, 0xFF, 2, .present, fun _ n _ => .ldhA8A n⟩,
  ⟨0xE2, 0xFF, 1, .unnamed, fun _ _ _ => .ldhCA⟩,
  ⟨0xE6, 0xFF, 2, .present, fun _ n _ => .andAImm8 n⟩,
  ⟨0xE8, 0xFF, 2, .present, fun _ n _ => .addSpE8 n⟩,
  ⟨0xE9, 0xFF, 1, .absent, fun _ _ _ => .jpHl⟩,
  ⟨0xEA, 0xFF, 1, .unnamed, fun _ _ _ => .ldA16A⟩,
  ⟨0xEE, 0xFF, 2, .present, fun _ n _ => .xorAImm8 n⟩,
  ⟨0xF0, 0xFF, 2, .present, fun _ n _ => .ldhAA8 n⟩,
  ⟨0xF2, 0xFF, 1, .unnamed, fun _ _ _ => .ldhAC⟩,
  ⟨0xF3, 0xFF, 1, .absent, fun _ _ _ => .di⟩,
  ⟨0xF6, 0xFF, 2, .present, fun _ n _ => .orAImm8 n⟩,
  ⟨0xF8, 0xFF, 2, .present, fun _ n _ => .ldHlSpE8 n⟩,
  ⟨0xF9, 0xFF, 1, .unnamed, fun _ _ _ => .ldSpHl⟩,
  ⟨0xFA, 0xFF, 1, .unnamed, fun _ _ _ => .ldAA16⟩,
  ⟨0xFB, 0xFF, 1, .absent, fun _ _ _ => .ei⟩,
  ⟨0xFE, 0xFF, 1, .unnamed, fun _ _ _ => .cpAImm8⟩]

/-- The eleven values with no instruction (R230). -/
def opcodeRowsNoInstruction : List OpcodeRow := [
  ⟨0xD3, 0xFF, 1, .noInstruction, fun _ _ _ => .illegalD3⟩,
  ⟨0xDB, 0xFF, 1, .noInstruction, fun _ _ _ => .illegalDB⟩,
  ⟨0xDD, 0xFF, 1, .noInstruction, fun _ _ _ => .illegalDD⟩,
  ⟨0xE3, 0xFF, 1, .noInstruction, fun _ _ _ => .illegalE3⟩,
  ⟨0xE4, 0xFF, 1, .noInstruction, fun _ _ _ => .illegalE4⟩,
  ⟨0xEB, 0xFF, 1, .noInstruction, fun _ _ _ => .illegalEB⟩,
  ⟨0xEC, 0xFF, 1, .noInstruction, fun _ _ _ => .illegalEC⟩,
  ⟨0xED, 0xFF, 1, .noInstruction, fun _ _ _ => .illegalED⟩,
  ⟨0xF4, 0xFF, 1, .noInstruction, fun _ _ _ => .illegalF4⟩,
  ⟨0xFC, 0xFF, 1, .noInstruction, fun _ _ _ => .illegalFC⟩,
  ⟨0xFD, 0xFF, 1, .noInstruction, fun _ _ _ => .illegalFD⟩]

/-- The whole table, in file order (R105). -/
def opcodeTable : List OpcodeRow :=
  opcodeRowsBlock0 ++ opcodeRowsBlocks12 ++ opcodeRowsBlock3a ++ opcodeRowsBlock3b ++ opcodeRowsNoInstruction

/-- The row of an opcode: "the first row with `op & mask = match`" (R105, R120). -/
def rowOf (op : Byte) : Option OpcodeRow :=
  opcodeTable.find? fun row => op &&& row.mask == row.pattern

/-! ## The decoder over bytes (R90, R94) -/

/-- Why a list of bytes gives no instruction. -/
inductive DecodeError where
  /-- No opcode byte. -/
  | noBytes
  /-- The list ends before the immediate bytes that the opcode's row asks for. -/
  | missingImmediate (op : Byte)
  /-- No row of the table matches; by R96 there is no such opcode (theorem `rowOf_isSome`). -/
  | noRow (op : Byte)
deriving DecidableEq, Repr

/-- The instruction at the front of a list of bytes, and the bytes after it. The opcode byte alone decides the length
(R90); an immediate word comes low byte first (R63, R94). -/
def decode : List Byte → Except DecodeError (Instr × List Byte)
  | [] => .error .noBytes
  | op :: rest =>
    match rowOf op with
    | none => .error (.noRow op)
    | some row =>
      match row.length, rest with
      | 1, rest => .ok (row.build op 0 0, rest)
      | 2, n :: rest => .ok (row.build op n 0, rest)
      | 3, lo :: hi :: rest => .ok (row.build op lo hi, rest)
      | _, _ => .error (.missingImmediate op)

/-- The bytes, lowest address first, of an instruction given as a number whose bit 0 is the least significant bit of the
first byte; three bytes is the longest instruction (R90), and every bit above `nbits` is 0. -/
def tableWordBytes (nbits w : Nat) : List Byte :=
  let v := w % 2 ^ nbits
  [BitVec.ofNat 8 v, BitVec.ofNat 8 (v / 256), BitVec.ofNat 8 (v / 65536)]

/-- The instruction the decoder reads from a table word; `none` where it reads none. -/
def decodeTableWord (nbits w : Nat) : Option Instr :=
  match decode (tableWordBytes nbits w) with
  | .ok (i, _) => some i
  | .error _ => none

/-! ## The encoder (the patterns of R93, R97 and R211 to R255) -/

/-- The opcode byte of an instruction, as the pattern of its row writes it. -/
def opcode : Instr → Byte
  | .nop => 0b00000000
  | .ldR16Imm16 p _ => 0b00#2 ++ p.code ++ 0b0001#4
  | .ldR16memA p => 0b00#2 ++ p.code ++ 0b0010#4
  | .incR16 p => 0b00#2 ++ p.code ++ 0b0011#4
  | .incR8 r => 0b00#2 ++ r.code ++ 0b100#3
  | .decR8 r => 0b00#2 ++ r.code ++ 0b101#3
  | .ldR8Imm8 r _ => 0b00#2 ++ r.code ++ 0b110#3
  | .rlca => 0b00000111
  | .ldA16Sp => 0b00001000
  | .addHlR16 p => 0b00#2 ++ p.code ++ 0b1001#4
  | .ldAR16mem p => 0b00#2 ++ p.code ++ 0b1010#4
  | .decR16 p => 0b00#2 ++ p.code ++ 0b1011#4
  | .rrca => 0b00001111
  | .stop => 0b00010000
  | .rla => 0b00010111
  | .jrE8 => 0b00011000
  | .rra => 0b00011111
  | .jrCcE8 cc => 0b001#3 ++ cc.code ++ 0b000#3
  | .daa => 0b00100111
  | .cpl => 0b00101111
  | .scf => 0b00110111
  | .ccf => 0b00111111
  | .halt => 0b01110110
  | .ldR8R8 dst src => 0b01#2 ++ dst.code ++ src.code
  | .addAR8 r => 0b10000#5 ++ r.code
  | .adcAR8 r => 0b10001#5 ++ r.code
  | .subAR8 r => 0b10010#5 ++ r.code
  | .sbcAR8 r => 0b10011#5 ++ r.code
  | .andAR8 r => 0b10100#5 ++ r.code
  | .xorAR8 r => 0b10101#5 ++ r.code
  | .orAR8 r => 0b10110#5 ++ r.code
  | .cpAR8 r => 0b10111#5 ++ r.code
  | .retCc cc => 0b110#3 ++ cc.code ++ 0b000#3
  | .popR16stk p => 0b11#2 ++ p.code ++ 0b0001#4
  | .jpCcA16 cc => 0b110#3 ++ cc.code ++ 0b010#3
  | .jpA16 => 0b11000011
  | .callCcA16 cc => 0b110#3 ++ cc.code ++ 0b100#3
  | .pushR16stk p => 0b11#2 ++ p.code ++ 0b0101#4
  | .addAImm8 _ => 0b11000110
  | .rstTgt t => 0b11#2 ++ t ++ 0b111#3
  | .ret => 0b11001001
  | .prefixCb => 0b11001011
  | .callA16 => 0b11001101
  | .adcAImm8 _ => 0b11001110
  | .subAImm8 _ => 0b11010110
  | .reti => 0b11011001
  | .sbcAImm8 _ => 0b11011110
  | .ldhA8A _ => 0b11100000
  | .ldhCA => 0b11100010
  | .andAImm8 _ => 0b11100110
  | .addSpE8 _ => 0b11101000
  | .jpHl => 0b11101001
  | .ldA16A => 0b11101010
  | .xorAImm8 _ => 0b11101110
  | .ldhAA8 _ => 0b11110000
  | .ldhAC => 0b11110010
  | .di => 0b11110011
  | .orAImm8 _ => 0b11110110
  | .ldHlSpE8 _ => 0b11111000
  | .ldSpHl => 0b11111001
  | .ldAA16 => 0b11111010
  | .ei => 0b11111011
  | .cpAImm8 => 0b11111110
  | .illegalD3 => 0b11010011
  | .illegalDB => 0b11011011
  | .illegalDD => 0b11011101
  | .illegalE3 => 0b11100011
  | .illegalE4 => 0b11100100
  | .illegalEB => 0b11101011
  | .illegalEC => 0b11101100
  | .illegalED => 0b11101101
  | .illegalF4 => 0b11110100
  | .illegalFC => 0b11111100
  | .illegalFD => 0b11111101

/-- The immediate bytes of an instruction, in ascending address order; a word low byte first (R63, R94). -/
def immediates : Instr → List Byte
  | .ldR16Imm16 _ v => [v.extractLsb' 0 8, v.extractLsb' 8 8]
  | .ldR8Imm8 _ n => [n]
  | .addAImm8 n | .adcAImm8 n | .subAImm8 n | .sbcAImm8 n | .andAImm8 n | .xorAImm8 n
  | .orAImm8 n | .ldhA8A n | .ldhAA8 n | .addSpE8 n | .ldHlSpE8 n => [n]
  | .nop | .ldR16memA _ | .incR16 _ | .incR8 _ | .decR8 _ | .rlca | .ldA16Sp | .addHlR16 _ | .ldAR16mem _
  | .decR16 _ | .rrca | .stop | .rla | .jrE8 | .rra | .jrCcE8 _ | .daa | .cpl | .scf | .ccf | .halt
  | .ldR8R8 _ _ | .addAR8 _ | .adcAR8 _ | .subAR8 _ | .sbcAR8 _ | .andAR8 _ | .xorAR8 _ | .orAR8 _ | .cpAR8 _
  | .retCc _ | .popR16stk _ | .jpCcA16 _ | .jpA16 | .callCcA16 _ | .pushR16stk _ | .rstTgt _ | .ret | .prefixCb
  | .callA16 | .reti | .ldhCA | .jpHl | .ldA16A | .ldhAC | .di | .ldSpHl | .ldAA16 | .ei | .cpAImm8 | .illegalD3
  | .illegalDB | .illegalDD | .illegalE3 | .illegalE4 | .illegalEB | .illegalEC | .illegalED | .illegalF4
  | .illegalFC | .illegalFD => []

/-- The bytes of an instruction, lowest address first (R90). -/
def encode (i : Instr) : List Byte := opcode i :: immediates i

/-- The number of bytes the core fetches for an instruction (R90, R105): 1, 2 or 3. -/
def Instr.length (i : Instr) : Nat := 1 + (immediates i).length

/-- The class of an instruction (R96; the "class" column of the table). -/
def Instr.opClass : Instr → OpClass
  | .nop | .ldR16Imm16 _ _ | .ldR16memA _ | .incR8 _ | .decR8 _ | .ldR8Imm8 _ _ | .addHlR16 _ | .ldAR16mem _
  | .ldR8R8 _ _ | .addAR8 _ | .adcAR8 _ | .subAR8 _ | .sbcAR8 _ | .andAR8 _ | .xorAR8 _ | .orAR8 _
  | .popR16stk _ | .pushR16stk _ | .addAImm8 _ | .adcAImm8 _ | .subAImm8 _ | .sbcAImm8 _ | .ldhA8A _
  | .andAImm8 _ | .addSpE8 _ | .xorAImm8 _ | .ldhAA8 _ | .orAImm8 _ | .ldHlSpE8 _ => .present
  | .rlca | .rrca | .rla | .jrE8 | .rra | .jrCcE8 _ | .halt | .retCc _ | .jpCcA16 _ | .jpA16 | .callCcA16 _
  | .rstTgt _ | .ret | .prefixCb | .callA16 | .reti | .jpHl | .di | .ei => .absent
  | .illegalD3 | .illegalDB | .illegalDD | .illegalE3 | .illegalE4 | .illegalEB | .illegalEC | .illegalED
  | .illegalF4 | .illegalFC | .illegalFD => .noInstruction
  | .incR16 _ | .ldA16Sp | .decR16 _ | .stop | .daa | .cpl | .scf | .ccf | .cpAR8 _ | .ldhCA | .ldA16A | .ldhAC
  | .ldSpHl | .ldAA16 | .cpAImm8 => .unnamed

/-! ## D00's five-strategy search (R95), with the keys of R98

`n` and `hi` are the bytes after the opcode, for the handlers that fetch them. The only handler outside class P is the
exact entry of 0x76, which faults (R98, R217). -/

/-- Strategy 1, "exact-opcode match": key `op`. -/
def exactMatch (op n : Byte) : Option Instr :=
  match op.toNat with
  | 0x00 => some .nop
  | 0x76 => some .halt
  | 0xC6 => some (.addAImm8 n)
  | 0xCE => some (.adcAImm8 n)
  | 0xD6 => some (.subAImm8 n)
  | 0xDE => some (.sbcAImm8 n)
  | 0xE6 => some (.andAImm8 n)
  | 0xEE => some (.xorAImm8 n)
  | 0xF6 => some (.orAImm8 n)
  | 0xE0 => some (.ldhA8A n)
  | 0xF0 => some (.ldhAA8 n)
  | 0xE8 => some (.addSpE8 n)
  | 0xF8 => some (.ldHlSpE8 n)
  | _ => none

/-- Strategy 2, "nibble match": key `nib`, handler argument `pair`. -/
def nibbleMatch (block : BitVec 2) (nib : BitVec 4) (pair : BitVec 2) (lo hi : Byte) : Option Instr :=
  match block.toNat, nib.toNat with
  | 0, 0x1 => some (.ldR16Imm16 (R16.ofCode pair) (hi ++ lo))
  | 0, 0x2 => some (.ldR16memA (R16Mem.ofCode pair))
  | 0, 0x9 => some (.addHlR16 (R16.ofCode pair))
  | 0, 0xA => some (.ldAR16mem (R16Mem.ofCode pair))
  | 3, 0x1 => some (.popR16stk (R16Stk.ofCode pair))
  | 3, 0x5 => some (.pushR16stk (R16Stk.ofCode pair))
  | _, _ => none

/-- Strategy 3, "primary register-field match": key `hi3`, handler argument `lo3`. -/
def primaryMatch (block : BitVec 2) (hi3 lo3 : BitVec 3) : Option Instr :=
  match block.toNat, hi3.toNat with
  | 2, 0 => some (.addAR8 (R8.ofCode lo3))
  | 2, 1 => some (.adcAR8 (R8.ofCode lo3))
  | 2, 2 => some (.subAR8 (R8.ofCode lo3))
  | 2, 3 => some (.sbcAR8 (R8.ofCode lo3))
  | 2, 4 => some (.andAR8 (R8.ofCode lo3))
  | 2, 5 => some (.xorAR8 (R8.ofCode lo3))
  | 2, 6 => some (.orAR8 (R8.ofCode lo3))
  | _, _ => none

/-- Strategy 4, "secondary register-field match": key `lo3`, handler argument `hi3`. -/
def secondaryMatch (block : BitVec 2) (lo3 hi3 : BitVec 3) (n : Byte) : Option Instr :=
  match block.toNat, lo3.toNat with
  | 0, 4 => some (.incR8 (R8.ofCode hi3))
  | 0, 5 => some (.decR8 (R8.ofCode hi3))
  | 0, 6 => some (.ldR8Imm8 (R8.ofCode hi3) n)
  | _, _ => none

/-- Strategy 5, "dual register-field fallback": block 1's generic load handler takes `hi3` and `lo3`. -/
def dualFallback (block : BitVec 2) (hi3 lo3 : BitVec 3) : Option Instr :=
  match block.toNat with
  | 1 => some (.ldR8R8 (R8.ofCode hi3) (R8.ofCode lo3))
  | _ => none

/-- The search: the CB-prefixed block first and "regardless of the top two bits" (it has no handlers, R103); else "the first
strategy that has a registered handler for the derived key", in R95's order. `none`: no handler, an unknown opcode. -/
def strategySearch (op n hi : Byte) : Option Instr :=
  if op = 0xCB then none else
  (exactMatch op n).or <|
  (nibbleMatch (blockField op) (nibField op) (pairField op) n hi).or <|
  (primaryMatch (blockField op) (hi3Field op) (lo3Field op)).or <|
  (secondaryMatch (blockField op) (lo3Field op) (hi3Field op) n).or <|
  dualFallback (blockField op) (hi3Field op) (lo3Field op)

end Sys2Proof
end

