-- ==== Sys2Proof/Machine/Control.lean ====
section
/-! DEFINITION. `NOP` (spec/40_step_dispatch.md R129), and the opcodes that report `UnknownOpcode`: class A, the families D00
says are not implemented (spec/45_absent_unnamed.md R211 to R229), and class I, the values with no instruction (R230). Common
outcome of the two (R210): no immediate is fetched, no register, flag or memory byte changes, the condition is recorded. -/

namespace Sys2Proof.Machine

/-- `NOP` (R129): nothing after the opcode fetch. -/
def execNop (s : State) : Host.Outcome State Fault Refusal := .next s

/-- The common outcome of class A and class I (R210), for the opcode the instruction is encoded by. -/
def unknownOpcode (i : Instr) (s : State) : Host.Outcome State Fault Refusal := .next (s.raiseUnknownOpcode (opcode i))

/-- `RLCA` (R211). -/
def execRlca (s : State) : Host.Outcome State Fault Refusal := unknownOpcode .rlca s

/-- `RRCA` (R212). -/
def execRrca (s : State) : Host.Outcome State Fault Refusal := unknownOpcode .rrca s

/-- `RLA` (R213). -/
def execRla (s : State) : Host.Outcome State Fault Refusal := unknownOpcode .rla s

/-- `JR e8` (R215). -/
def execJrE8 (s : State) : Host.Outcome State Fault Refusal := unknownOpcode .jrE8 s

/-- `RRA` (R214). -/
def execRra (s : State) : Host.Outcome State Fault Refusal := unknownOpcode .rra s

/-- `JR cc,e8` (R216). -/
def execJrCcE8 (cc : Cond) (s : State) : Host.Outcome State Fault Refusal := unknownOpcode (.jrCcE8 cc) s

/-- `HALT` (R217). -/
def execHalt (s : State) : Host.Outcome State Fault Refusal := unknownOpcode .halt s

/-- `RET cc` (R218). -/
def execRetCc (cc : Cond) (s : State) : Host.Outcome State Fault Refusal := unknownOpcode (.retCc cc) s

/-- `JP cc,a16` (R221). -/
def execJpCcA16 (cc : Cond) (s : State) : Host.Outcome State Fault Refusal := unknownOpcode (.jpCcA16 cc) s

/-- `JP a16` (R222). -/
def execJpA16 (s : State) : Host.Outcome State Fault Refusal := unknownOpcode .jpA16 s

/-- `CALL cc,a16` (R224). -/
def execCallCcA16 (cc : Cond) (s : State) : Host.Outcome State Fault Refusal := unknownOpcode (.callCcA16 cc) s

/-- `RST tgt` (R226). -/
def execRstTgt (t : BitVec 3) (s : State) : Host.Outcome State Fault Refusal := unknownOpcode (.rstTgt t) s

/-- `RET` (R219). -/
def execRet (s : State) : Host.Outcome State Fault Refusal := unknownOpcode .ret s

/-- `PREFIX CB` (R229). -/
def execPrefixCb (s : State) : Host.Outcome State Fault Refusal := unknownOpcode .prefixCb s

/-- `CALL a16` (R225). -/
def execCallA16 (s : State) : Host.Outcome State Fault Refusal := unknownOpcode .callA16 s

/-- `RETI` (R220). -/
def execReti (s : State) : Host.Outcome State Fault Refusal := unknownOpcode .reti s

/-- `JP HL` (R223). -/
def execJpHl (s : State) : Host.Outcome State Fault Refusal := unknownOpcode .jpHl s

/-- `DI` (R227). -/
def execDi (s : State) : Host.Outcome State Fault Refusal := unknownOpcode .di s

/-- `EI` (R228). -/
def execEi (s : State) : Host.Outcome State Fault Refusal := unknownOpcode .ei s

/-- `ILLEGAL_D3` (R230). -/
def execIllegalD3 (s : State) : Host.Outcome State Fault Refusal := unknownOpcode .illegalD3 s

/-- `ILLEGAL_DB` (R230). -/
def execIllegalDB (s : State) : Host.Outcome State Fault Refusal := unknownOpcode .illegalDB s

/-- `ILLEGAL_DD` (R230). -/
def execIllegalDD (s : State) : Host.Outcome State Fault Refusal := unknownOpcode .illegalDD s

/-- `ILLEGAL_E3` (R230). -/
def execIllegalE3 (s : State) : Host.Outcome State Fault Refusal := unknownOpcode .illegalE3 s

/-- `ILLEGAL_E4` (R230). -/
def execIllegalE4 (s : State) : Host.Outcome State Fault Refusal := unknownOpcode .illegalE4 s

/-- `ILLEGAL_EB` (R230). -/
def execIllegalEB (s : State) : Host.Outcome State Fault Refusal := unknownOpcode .illegalEB s

/-- `ILLEGAL_EC` (R230). -/
def execIllegalEC (s : State) : Host.Outcome State Fault Refusal := unknownOpcode .illegalEC s

/-- `ILLEGAL_ED` (R230). -/
def execIllegalED (s : State) : Host.Outcome State Fault Refusal := unknownOpcode .illegalED s

/-- `ILLEGAL_F4` (R230). -/
def execIllegalF4 (s : State) : Host.Outcome State Fault Refusal := unknownOpcode .illegalF4 s

/-- `ILLEGAL_FC` (R230). -/
def execIllegalFC (s : State) : Host.Outcome State Fault Refusal := unknownOpcode .illegalFC s

/-- `ILLEGAL_FD` (R230). -/
def execIllegalFD (s : State) : Host.Outcome State Fault Refusal := unknownOpcode .illegalFD s

end Sys2Proof.Machine
end

