-- ==== Sys2Proof/Machine/Load16.lean ====
section
/-! DEFINITION. Sixteen-bit immediate load, push and pop (spec/44_load16_stack.md R200 to R202). -/

namespace Sys2Proof.Machine

/-- `LD r16,imm16` (R200); the word has been fetched, low byte first. -/
def execLdR16Imm16 (p : R16) (v : Word) (s : State) : Host.Outcome State Fault Refusal := .next (s.r16Write p v)

/-- Push one byte: SP is decremented, then the byte written at it (R201). -/
def State.pushByte (s : State) (v : Byte) : State :=
  let s1 := s.setSp (s.sp - 1)
  s1.busWrite s1.sp v

/-- Pop one byte: it is read at SP, then SP is incremented (R202). -/
def State.popByte (s : State) : Byte × State :=
  let q := s.busRead s.sp
  (q.1, q.2.setSp (q.2.sp + 1))

/-- `PUSH r16stk` (R201): high byte, then low byte, to descending addresses; one internal cycle. -/
def execPushR16stk (p : R16Stk) (s : State) : Host.Outcome State Fault Refusal :=
  let v := s.r16stkRead p
  .next (((s.pushByte (hiByte v)).pushByte (loByte v)).internal 1)

/-- `POP r16stk` (R202): low byte, then high byte; into AF by the AF write of R17. -/
def execPopR16stk (p : R16Stk) (s : State) : Host.Outcome State Fault Refusal :=
  let lo := s.popByte
  let hi := lo.2.popByte
  .next (hi.2.r16stkWrite p (wordOf hi.1 lo.1))

end Sys2Proof.Machine
end

