-- ==== Sys2Proof/Machine/Load8.lean ====
section
/-! DEFINITION. Eight-bit loads (spec/43_load8.md R181 to R186). None reads or writes a flag (R187). -/

namespace Sys2Proof.Machine

/-- `LD r8,r8'` (R181): `x <- r8[s]`, then `r8[d] <- x`. Both fields `[HL]` "is not this instruction": its byte 0x76 is HALT's,
which reports `UnknownOpcode` (R217, C6); `step` never gives that term (log 9). -/
def execLdR8R8 (dst src : R8) (s : State) : Host.Outcome State Fault Refusal :=
  if dst = .mHL ∧ src = .mHL then .next (s.raiseUnknownOpcode 0x76)
  else
    let q := s.r8Read src
    .next (q.2.r8Write dst q.1)

/-- `LD r8,imm8` (R182). -/
def execLdR8Imm8 (r : R8) (n : Byte) (s : State) : Host.Outcome State Fault Refusal := .next (s.r8Write r n)

/-- `LD [r16mem],A` (R183). -/
def execLdR16memA (p : R16Mem) (s : State) : Host.Outcome State Fault Refusal :=
  let q := s.r16mem p
  .next (q.2.busWrite q.1 s.r.a)

/-- `LD A,[r16mem]` (R184). -/
def execLdAR16mem (p : R16Mem) (s : State) : Host.Outcome State Fault Refusal :=
  let q := s.r16mem p
  let x := q.2.busRead q.1
  .next (x.2.setA x.1)

/-- `LDH [a8],A` (R185). -/
def execLdhA8A (n : Byte) (s : State) : Host.Outcome State Fault Refusal := .next (s.busWrite (highPage n) s.r.a)

/-- `LDH A,[a8]` (R186). -/
def execLdhAA8 (n : Byte) (s : State) : Host.Outcome State Fault Refusal :=
  let x := s.busRead (highPage n)
  .next (x.2.setA x.1)

end Sys2Proof.Machine
end

