-- ==== Sys2Proof/Machine/Unnamed.lean ====
section
/-! DEFINITION. Class U (spec/45_absent_unnamed.md R240 to R255): instructions "D00 neither describes nor lists as missing".
"The model has no meaning for them: after the opcode fetch the step ends with `refuse NotSpecified(op)`" (R240). -/

namespace Sys2Proof.Machine

/-- The common outcome of class U (R240), for the opcode the instruction is encoded by. -/
def notSpecified (i : Instr) : Host.Outcome State Fault Refusal := refuseNotSpecified (opcode i)

/-- `INC r16` (R241). -/
def execIncR16 (p : R16) (_s : State) : Host.Outcome State Fault Refusal := notSpecified (.incR16 p)

/-- `LD [a16],SP` (R243). -/
def execLdA16Sp (_s : State) : Host.Outcome State Fault Refusal := notSpecified .ldA16Sp

/-- `DEC r16` (R242). -/
def execDecR16 (p : R16) (_s : State) : Host.Outcome State Fault Refusal := notSpecified (.decR16 p)

/-- `STOP` (R244). -/
def execStop (_s : State) : Host.Outcome State Fault Refusal := notSpecified .stop

/-- `DAA` (R245). -/
def execDaa (_s : State) : Host.Outcome State Fault Refusal := notSpecified .daa

/-- `CPL` (R246). -/
def execCpl (_s : State) : Host.Outcome State Fault Refusal := notSpecified .cpl

/-- `SCF` (R247). -/
def execScf (_s : State) : Host.Outcome State Fault Refusal := notSpecified .scf

/-- `CCF` (R248). -/
def execCcf (_s : State) : Host.Outcome State Fault Refusal := notSpecified .ccf

/-- `CP A,r8` (R249). -/
def execCpAR8 (r : R8) (_s : State) : Host.Outcome State Fault Refusal := notSpecified (.cpAR8 r)

/-- `LDH [C],A` (R251). -/
def execLdhCA (_s : State) : Host.Outcome State Fault Refusal := notSpecified .ldhCA

/-- `LD [a16],A` (R253). -/
def execLdA16A (_s : State) : Host.Outcome State Fault Refusal := notSpecified .ldA16A

/-- `LDH A,[C]` (R252). -/
def execLdhAC (_s : State) : Host.Outcome State Fault Refusal := notSpecified .ldhAC

/-- `LD SP,HL` (R255). -/
def execLdSpHl (_s : State) : Host.Outcome State Fault Refusal := notSpecified .ldSpHl

/-- `LD A,[a16]` (R254). -/
def execLdAA16 (_s : State) : Host.Outcome State Fault Refusal := notSpecified .ldAA16

/-- `CP A,imm8` (R250). -/
def execCpAImm8 (_s : State) : Host.Outcome State Fault Refusal := notSpecified .cpAImm8

end Sys2Proof.Machine
end

