-- ==== Sys2Proof/Machine/Dispatch.lean ====
section
/-! DEFINITION. One arm per instruction, in the order of spec/opcode_table.json. The state an arm is given is the one after
all bytes of the instruction have been fetched (log 8). -/

namespace Sys2Proof.Machine

def exec (i : Instr) (s : State) : Host.Outcome State Fault Refusal :=
  match i with
  | .nop => Sys2Proof.Machine.execNop s
  | .ldR16Imm16 p v => Sys2Proof.Machine.execLdR16Imm16 p v s
  | .ldR16memA p => Sys2Proof.Machine.execLdR16memA p s
  | .incR16 p => Sys2Proof.Machine.execIncR16 p s
  | .incR8 r => Sys2Proof.Machine.execIncR8 r s
  | .decR8 r => Sys2Proof.Machine.execDecR8 r s
  | .ldR8Imm8 r n => Sys2Proof.Machine.execLdR8Imm8 r n s
  | .rlca => Sys2Proof.Machine.execRlca s
  | .ldA16Sp => Sys2Proof.Machine.execLdA16Sp s
  | .addHlR16 p => Sys2Proof.Machine.execAddHlR16 p s
  | .ldAR16mem p => Sys2Proof.Machine.execLdAR16mem p s
  | .decR16 p => Sys2Proof.Machine.execDecR16 p s
  | .rrca => Sys2Proof.Machine.execRrca s
  | .stop => Sys2Proof.Machine.execStop s
  | .rla => Sys2Proof.Machine.execRla s
  | .jrE8 => Sys2Proof.Machine.execJrE8 s
  | .rra => Sys2Proof.Machine.execRra s
  | .jrCcE8 cc => Sys2Proof.Machine.execJrCcE8 cc s
  | .daa => Sys2Proof.Machine.execDaa s
  | .cpl => Sys2Proof.Machine.execCpl s
  | .scf => Sys2Proof.Machine.execScf s
  | .ccf => Sys2Proof.Machine.execCcf s
  | .halt => Sys2Proof.Machine.execHalt s
  | .ldR8R8 dst src => Sys2Proof.Machine.execLdR8R8 dst src s
  | .addAR8 r => Sys2Proof.Machine.execAddAR8 r s
  | .adcAR8 r => Sys2Proof.Machine.execAdcAR8 r s
  | .subAR8 r => Sys2Proof.Machine.execSubAR8 r s
  | .sbcAR8 r => Sys2Proof.Machine.execSbcAR8 r s
  | .andAR8 r => Sys2Proof.Machine.execAndAR8 r s
  | .xorAR8 r => Sys2Proof.Machine.execXorAR8 r s
  | .orAR8 r => Sys2Proof.Machine.execOrAR8 r s
  | .cpAR8 r => Sys2Proof.Machine.execCpAR8 r s
  | .retCc cc => Sys2Proof.Machine.execRetCc cc s
  | .popR16stk p => Sys2Proof.Machine.execPopR16stk p s
  | .jpCcA16 cc => Sys2Proof.Machine.execJpCcA16 cc s
  | .jpA16 => Sys2Proof.Machine.execJpA16 s
  | .callCcA16 cc => Sys2Proof.Machine.execCallCcA16 cc s
  | .pushR16stk p => Sys2Proof.Machine.execPushR16stk p s
  | .addAImm8 n => Sys2Proof.Machine.execAddAImm8 n s
  | .rstTgt t => Sys2Proof.Machine.execRstTgt t s
  | .ret => Sys2Proof.Machine.execRet s
  | .prefixCb => Sys2Proof.Machine.execPrefixCb s
  | .callA16 => Sys2Proof.Machine.execCallA16 s
  | .adcAImm8 n => Sys2Proof.Machine.execAdcAImm8 n s
  | .subAImm8 n => Sys2Proof.Machine.execSubAImm8 n s
  | .reti => Sys2Proof.Machine.execReti s
  | .sbcAImm8 n => Sys2Proof.Machine.execSbcAImm8 n s
  | .ldhA8A n => Sys2Proof.Machine.execLdhA8A n s
  | .ldhCA => Sys2Proof.Machine.execLdhCA s
  | .andAImm8 n => Sys2Proof.Machine.execAndAImm8 n s
  | .addSpE8 n => Sys2Proof.Machine.execAddSpE8 n s
  | .jpHl => Sys2Proof.Machine.execJpHl s
  | .ldA16A => Sys2Proof.Machine.execLdA16A s
  | .xorAImm8 n => Sys2Proof.Machine.execXorAImm8 n s
  | .ldhAA8 n => Sys2Proof.Machine.execLdhAA8 n s
  | .ldhAC => Sys2Proof.Machine.execLdhAC s
  | .di => Sys2Proof.Machine.execDi s
  | .orAImm8 n => Sys2Proof.Machine.execOrAImm8 n s
  | .ldHlSpE8 n => Sys2Proof.Machine.execLdHlSpE8 n s
  | .ldSpHl => Sys2Proof.Machine.execLdSpHl s
  | .ldAA16 => Sys2Proof.Machine.execLdAA16 s
  | .ei => Sys2Proof.Machine.execEi s
  | .cpAImm8 => Sys2Proof.Machine.execCpAImm8 s
  | .illegalD3 => Sys2Proof.Machine.execIllegalD3 s
  | .illegalDB => Sys2Proof.Machine.execIllegalDB s
  | .illegalDD => Sys2Proof.Machine.execIllegalDD s
  | .illegalE3 => Sys2Proof.Machine.execIllegalE3 s
  | .illegalE4 => Sys2Proof.Machine.execIllegalE4 s
  | .illegalEB => Sys2Proof.Machine.execIllegalEB s
  | .illegalEC => Sys2Proof.Machine.execIllegalEC s
  | .illegalED => Sys2Proof.Machine.execIllegalED s
  | .illegalF4 => Sys2Proof.Machine.execIllegalF4 s
  | .illegalFC => Sys2Proof.Machine.execIllegalFC s
  | .illegalFD => Sys2Proof.Machine.execIllegalFD s

end Sys2Proof.Machine
end

