-- ==== Sys2Proof/Machine/Fetch.lean ====
section
/-! DEFINITION. Fetching an instruction (spec/40_step_dispatch.md R120, R121, R127; spec/30_encoding.md R90), and placing one
from outside. -/

namespace Sys2Proof.Machine

/-- `cycles <- 0` (R120, D00 step 1). -/
def State.beginStep (s : State) : State := s.setCycles 0

/-- Fetch the opcode byte by `Fetch8()`, find its row, fetch the immediate bytes of the row by `Fetch8()` or `Fetch16()`, and
build the instruction. Every access of an instruction after its last fetch is a data access (R127), so that the fetches of
all handlers can be made here (log 8). `none` if no row matches, which no opcode brings about. -/
def State.fetchInstr (s : State) : Option (Instr × State) :=
  let op := s.fetch8
  match rowOf op.1 with
  | none => none
  | some row =>
    match row.length with
    | 2 =>
      let n := op.2.fetch8
      some (row.build op.1 n.1 0, n.2)
    | 3 =>
      let v := op.2.fetch16
      some (row.build op.1 (loByte v.1) (hiByte v.1), v.2)
    | _ => some (row.build op.1 0 0, op.2)

/-- Store bytes at an address upward, modulo 65536, without a cycle and without an event: what a loader does (R310). -/
def Bus.storeBytes (b : Bus) (a : Word) : List Byte → Bus
  | [] => b
  | v :: vs => Bus.storeBytes (b.store a v) (a + 1) vs

/-- Whether the three bytes at an address all have storage behind them. -/
def Bus.mapped3 (b : Bus) (a : Word) : Bool :=
  (b.map a).isSome && (b.map (a + 1)).isSome && (b.map (a + 2)).isSome

/-- Place three instruction bytes where the next step fetches. PC stays as it is unless one of the three bytes there is
unmapped; then it is set to 0xC000, working RAM (log 11). -/
def State.placeInstr (s : State) (bytes : List Byte) : State :=
  let pc := if s.bus.mapped3 s.pc then s.pc else 0xC000
  (s.setPc pc).setBus (s.bus.storeBytes pc bytes)

end Sys2Proof.Machine
end

