-- ==== Sys2Proof/Machine/Step.lean ====
section
/-! DEFINITION. One step of the core (spec/40_step_dispatch.md R120): "`step()` resets a per-step cycle counter, fetches the
opcode through the bus ..., decodes, dispatches to exactly one handler". -/

namespace Sys2Proof.Machine

/-- `step()` (R120, R285). Its return value, the cycle count, is the field `cycles` of the state it answers (R29). -/
def step (s : State) : Host.Outcome State Fault Refusal :=
  match s.beginStep.fetchInstr with
  | none => .refused (.noRow (s.bus.byteAt s.pc))
  | some (i, s1) => exec i s1

/-- The state with an instruction, given as a number of `nbits` bits whose bit 0 is the least significant bit of the first
byte, stored where `step` fetches its next instruction (log 11). -/
def State.withFetchWord (s : State) (nbits w : Nat) : State := s.placeInstr (tableWordBytes nbits w)

end Sys2Proof.Machine
end

