-- ==== Sys2Proof/Machine/Interface.lean ====
section
/-! DEFINITION. The interface to host and collaborators (spec/60_exceptions.md R285 to R289), used BETWEEN steps only (R72), and
construction, the core's one reset (spec/70_reset_and_hazards.md R300, R301). No instruction reaches anything of this file. -/

namespace Sys2Proof.Machine

/-! ## Construction (R301) -/

/-- The open parameters of a construction beside the ROM image: RESET_REGS (D15), RAM_INIT (D16), the reset banks (D11), and
the parameters of R7 other than ROM_SIZE. -/
structure Setup where
  r : Regs
  f : Flags
  sp : Word
  pc : Word
  vram : Memory
  eram : Memory
  wram : Memory
  oam : Memory
  io : Memory
  hram : Memory
  romxBank : Nat
  wramxBank : Nat
  wramBanks : Nat
  icycAddSp : Nat
  icycLdHlSp : Nat
deriving DecidableEq, Repr

/-- The choice of the open parameters that `State.reset` makes (log 3 to 6). DESIGN CHOICE, unsafe. -/
def Setup.default : Setup :=
  { r := { a := 0, b := 0, c := 0, d := 0, e := 0, h := 0, l := 0 }
    f := { z := false, n := false, h := false, c := false }
    sp := 0, pc := 0
    vram := [], eram := [], wram := [], oam := [], io := [], hram := []
    romxBank := 0, wramxBank := 0
    wramBanks := 8, icycAddSp := 2, icycLdHlSp := 1 }

/-- `construct(ROM_IMAGE)` (R301): a ROM image shorter than 32768 or longer than 8388608 bytes fails with `RomSizeOutOfRange`
(R272); otherwise the arrays are filled, the default mapping built (R56: fixed windows on bank 0, the switchable ones on their
reset banks), the registers set and the record of conditions emptied. -/
def construct (image : List Byte) (u : Setup) : Host.Outcome State Fault Refusal :=
  if image.length < 32768 ∨ image.length > 8388608 then .fault (.romSizeOutOfRange image.length)
  else .next
    { r := u.r, f := u.f, sp := u.sp, pc := u.pc, cycles := 0
      bus :=
        { rom := Memory.ofBytes image
          vram := u.vram, eram := u.eram, wram := u.wram, oam := u.oam, io := u.io, hram := u.hram
          romBank := u.romxBank, wramBank := u.wramxBank }
      events := []
      params :=
        { romSize := image.length, wramBanks := u.wramBanks, icycAddSp := u.icycAddSp, icycLdHlSp := u.icycLdHlSp } }

/-! ## Getters (R288) -/

/-- The 16-bit registers and views that the snapshot interface names. -/
inductive Pair where
  | af | bc | de | hl | sp | pc
deriving DecidableEq, Repr

/-- `get AF/BC/DE/HL`, `get PC/SP` (R288): "no side effects". -/
def State.getPair (s : State) : Pair → Word
  | .af => s.af
  | .bc => s.r.bc
  | .de => s.r.de
  | .hl => s.r.hl
  | .sp => s.sp
  | .pc => s.pc

/-- The four flags, which "can also be read and set individually" (R288). -/
inductive FlagName where
  | z | n | h | c
deriving DecidableEq, Repr

/-- `get` of one flag (R288). -/
def State.getFlag (s : State) : FlagName → Bool
  | .z => s.f.z
  | .n => s.f.n
  | .h => s.f.h
  | .c => s.f.c

/-! ## Setters (R288); they mask values that are too wide (R19, D30) -/

/-- `set AF/BC/DE/HL`, `set PC/SP`: the value `v & 0xFFFF` is stored; into AF by R17. -/
def State.setPair (s : State) (p : Pair) (v : Nat) : State :=
  let w := BitVec.ofNat 16 v
  match p with
  | .af => s.setAf w
  | .bc => s.setRegs (s.r.setBc w)
  | .de => s.setRegs (s.r.setDe w)
  | .hl => s.setRegs (s.r.setHl w)
  | .sp => s.setSp w
  | .pc => s.setPc w

/-- `set` of an 8-bit register: the value `v & 0xFF` is stored. "Index 6 of the 8-bit accessor is reachable through this
interface too and then makes a bus access" (R288). -/
def State.setReg8 (s : State) (i : R8) (v : Nat) : State := s.r8Write i (BitVec.ofNat 8 v)

/-- `set` of one flag. -/
def State.setFlag (s : State) (g : FlagName) (v : Bool) : State :=
  match g with
  | .z => s.setFlags { s.f with z := v }
  | .n => s.setFlags { s.f with n := v }
  | .h => s.setFlags { s.f with h := v }
  | .c => s.setFlags { s.f with c := v }

/-! ## Bank switching (R58, R59, R287) -/

/-- `map ROM bank N` (R58); an index outside the array is no move (R59, D12). -/
def State.mapRomBank (s : State) (n : Nat) : Host.Outcome State Fault Refusal :=
  if n < romBanks s.params then .next (s.setBus { s.bus with romBank := n }) else .refused (.illegalBankIndex n)

/-- `map WRAM bank N` (R58): the window and its echo; an index outside the array is no move (R59, D12). -/
def State.mapWramBank (s : State) (n : Nat) : Host.Outcome State Fault Refusal :=
  if n < s.params.wramBanks then .next (s.setBus { s.bus with wramBank := n }) else .refused (.illegalBankIndex n)

/-! ## The moves (R289) -/

/-- What a host or a collaborator may do between two steps, beside calling `step()` (R289). -/
inductive Move where
  /-- bus `read(address)` (R286); the byte is `(s.busRead a).1` -/
  | read (a : Word)
  /-- bus `write(address, byte)` (R286) -/
  | write (a : Word) (v : Nat)
  /-- `map ROM bank N` (R287) -/
  | mapRomBank (n : Nat)
  /-- `map WRAM bank N` (R287) -/
  | mapWramBank (n : Nat)
  /-- `get` of an 8-bit operand by index (R288); the byte is `(s.r8Read i).1` -/
  | getReg8 (i : R8)
  /-- `set` of an 8-bit operand by index (R288) -/
  | setReg8 (i : R8) (v : Nat)
  /-- `get` of a 16-bit register or view (R288); the word is `s.getPair p` -/
  | getPair (p : Pair)
  /-- `set` of a 16-bit register or view (R288) -/
  | setPair (p : Pair) (v : Nat)
  /-- `get` of a flag (R288); the value is `s.getFlag g` -/
  | getFlag (g : FlagName)
  /-- `set` of a flag (R288) -/
  | setFlag (g : FlagName) (v : Bool)
deriving DecidableEq, Repr

/-- The effect of a move on the state (R286 to R289). -/
def applyMove (m : Move) (s : State) : Host.Outcome State Fault Refusal :=
  match m with
  | .read a => .next (s.busRead a).2
  | .write a v => .next (s.busWrite a (BitVec.ofNat 8 v))
  | .mapRomBank n => s.mapRomBank n
  | .mapWramBank n => s.mapWramBank n
  | .getReg8 i => .next (s.r8Read i).2
  | .setReg8 i v => .next (s.setReg8 i v)
  | .getPair _ => .next s
  | .setPair p v => .next (s.setPair p v)
  | .getFlag _ => .next s
  | .setFlag g v => .next (s.setFlag g v)

/-- One thing that happens to the machine: a call of `step()`, or a move between two steps. -/
inductive Action where
  | step
  | move (m : Move)
deriving DecidableEq, Repr

/-- The effect of one action. -/
def act (x : Action) (s : State) : Host.Outcome State Fault Refusal :=
  match x with
  | .step => step s
  | .move m => applyMove m s

/-- A session: actions one after another, up to the first refusal (R72, R289). -/
def runActions : List Action → State → Host.Outcome State Fault Refusal
  | [], s => .next s
  | x :: xs, s =>
    match act x s with
    | .next t => runActions xs t
    | .fault e => .fault e
    | .refused e => .refused e

end Sys2Proof.Machine
end

