-- ==== Sys2Proof/Safety.lean ====
section
/-! DEFINITION. The invariant of the core, and what counts as a safe run. -/

namespace Sys2Proof.Machine

/-- Every array of the bus is in canonical form for its size (R7, R10, R30). -/
def Bus.arraysWf (p : Params) (b : Bus) : Bool :=
  Memory.wf (ArrayId.size p .rom) b.rom && Memory.wf (ArrayId.size p .vram) b.vram &&
  Memory.wf (ArrayId.size p .eram) b.eram && Memory.wf (ArrayId.size p .wram) b.wram &&
  Memory.wf (ArrayId.size p .oam) b.oam && Memory.wf (ArrayId.size p .io) b.io &&
  Memory.wf (ArrayId.size p .hram) b.hram

/-- The invariant: the parameters are legal (R7), both bank indices are legal (R59), and every array is in canonical form. -/
abbrev State.Inv (s : State) : Prop :=
  s.params.legal ∧ s.bus.romBank < romBanks s.params ∧ s.bus.wramBank < s.params.wramBanks ∧
  s.bus.arraysWf s.params = true

/-- No `UnknownOpcode` is recorded: the premise R270 gives to every claim about a run that is not about that condition. -/
def State.noUnknownOpcode (s : State) : Bool :=
  s.events.all fun e => match e with
    | .unknownOpcode _ _ => false
    | .unmappedAccess _ _ => true

/-- No `UnmappedAccess` is recorded: the stricter premise R271 allows. -/
def State.noUnmappedAccess (s : State) : Bool :=
  s.events.all fun e => match e with
    | .unknownOpcode _ _ => true
    | .unmappedAccess _ _ => false

/-- A state of a safe run: the invariant holds, and no step before it ended in `UnknownOpcode` (a refused run has no later
state, R273). -/
abbrev State.Safe (s : State) : Prop := s.Inv ∧ s.noUnknownOpcode = true

end Sys2Proof.Machine
end

