-- ==== Sys2Proof/Certificates/Slice0/Obligations.lean ====
section
/-! DEFINITION. The statements for the provers. The helpers under `Sys2Proof.Spec` write the spec's own rules down a second
time, over the fields of State and the byte the bus shows at an address (`Bus.byteAt`), so that a statement compares the
model's meanings with them. Rule numbers are those of spec/. -/

namespace Sys2Proof.Spec

open Sys2Proof.Machine

/-! ## What an access and a fetch leave behind -/

/-- The condition an access records: `UnmappedAccess(k, a)` where `0xFEA0 <= a <= 0xFEFF`, nothing elsewhere (R52, R271). -/
def unmappedEvent (k : AccessKind) (a : Word) : List Event :=
  if 0xFEA0 ≤ a.toNat ∧ a.toNat ≤ 0xFEFF then [.unmappedAccess k a] else []

/-- The conditions that fetching `n` bytes from `a` upward records, in the order of the fetches. -/
def fetchEvents : Nat → Word → List Event
  | 0, _ => []
  | n + 1, a => unmappedEvent .read a ++ fetchEvents n (a + 1)

/-- The state after a step has fetched `n` instruction bytes: `cycles` was set to 0 and every byte charged one, PC has
advanced by `n` modulo 65536 (R15, R62, R64, R120). -/
def afterFetch (n : Nat) (s : State) : State :=
  { s with pc := s.pc + BitVec.ofNat 16 n, cycles := n, events := s.events ++ fetchEvents n s.pc }

/-- The bus shows the listed bytes at `a` upward. -/
def bytesAt (b : Bus) (a : Word) : List Byte → Prop
  | [] => True
  | v :: vs => b.byteAt a = v ∧ bytesAt b (a + 1) vs

/-- Instruction `i`, whose bytes are `bytes`, completes in EVERY state with the effect `E`: `exec i s` answers the next state
`E s`; and where the bytes stand at PC, `step s` answers `E` of the state after they are fetched. `E` is a whole state, so
whatever it does not mention is unchanged, and its `cycles` is the count `step()` returns. -/
def HasEffect (i : Instr) (bytes : List Byte) (E : State → State) : Prop :=
  ∀ s : State, exec i s = .next (E s) ∧ (bytesAt s.bus s.pc bytes → step s = .next (E (afterFetch bytes.length s)))

/-! ## Operands (R13, R16, R17, R20 to R24) -/

/-- The value of `r8[i]` (R20). -/
def operand (s : State) : R8 → Byte
  | .b => s.r.b | .c => s.r.c | .d => s.r.d | .e => s.r.e | .h => s.r.h | .l => s.r.l
  | .mHL => s.bus.byteAt (s.r.h ++ s.r.l)
  | .a => s.r.a

/-- The state after `r8[i]` is read (R20): only `[HL]` charges a cycle and can record a condition. -/
def operandRead (i : R8) (s : State) : State :=
  if i = .mHL then
    { s with cycles := s.cycles + 1, events := s.events ++ unmappedEvent .read (s.r.h ++ s.r.l) }
  else s

/-- The state after `r8[i] <- v` (R21): one register, or one bus write at HL. -/
def operandWrite (i : R8) (v : Byte) (s : State) : State :=
  match i with
  | .b => { s with r := { s.r with b := v } }
  | .c => { s with r := { s.r with c := v } }
  | .d => { s with r := { s.r with d := v } }
  | .e => { s with r := { s.r with e := v } }
  | .h => { s with r := { s.r with h := v } }
  | .l => { s with r := { s.r with l := v } }
  | .mHL =>
    { s with
      bus := s.bus.store (s.r.h ++ s.r.l) v, cycles := s.cycles + 1
      events := s.events ++ unmappedEvent .write (s.r.h ++ s.r.l) }
  | .a => { s with r := { s.r with a := v } }

/-- `v[15:8]` -/
def hi (v : Word) : Byte := v.extractLsb' 8 8
/-- `v[7:0]` -/
def lo (v : Word) : Byte := v.extractLsb' 0 8

/-- The value of a pair in Normal mode (R13, R22). -/
def pairValue (s : State) : R16 → Word
  | .bc => s.r.b ++ s.r.c
  | .de => s.r.d ++ s.r.e
  | .hl => s.r.h ++ s.r.l
  | .sp => s.sp

/-- The state after a pair in Normal mode is written (R13, R14, R22). -/
def pairWrite (p : R16) (v : Word) (s : State) : State :=
  match p with
  | .bc => { s with r := { s.r with b := hi v, c := lo v } }
  | .de => { s with r := { s.r with d := hi v, e := lo v } }
  | .hl => { s with r := { s.r with h := hi v, l := lo v } }
  | .sp => { s with sp := v }

/-- The flag byte: Z, N, H, C in bits 7, 6, 5, 4, and zeros below (R16, R18). -/
def flagByte (f : Flags) : Byte :=
  BitVec.ofBool f.z ++ BitVec.ofBool f.n ++ BitVec.ofBool f.h ++ BitVec.ofBool f.c ++ 0#4

/-- The value of a pair in Stack mode (R13, R16, R23). -/
def stackValue (s : State) : R16Stk → Word
  | .bc => s.r.b ++ s.r.c
  | .de => s.r.d ++ s.r.e
  | .hl => s.r.h ++ s.r.l
  | .af => s.r.a ++ flagByte s.f

/-- The state after a pair in Stack mode is written (R13, R17, R23). -/
def stackWrite (p : R16Stk) (v : Word) (s : State) : State :=
  match p with
  | .bc => { s with r := { s.r with b := hi v, c := lo v } }
  | .de => { s with r := { s.r with d := hi v, e := lo v } }
  | .hl => { s with r := { s.r with h := hi v, l := lo v } }
  | .af =>
    { s with
      r := { s.r with a := hi v }
      f := { z := v.getLsbD 7, n := v.getLsbD 6, h := v.getLsbD 5, c := v.getLsbD 4 } }

/-- What the snapshot interface reads under the name of a 16-bit register or view (R13 to R16, R288). -/
def viewValue (s : State) : Pair → Word
  | .af => s.r.a ++ flagByte s.f
  | .bc => s.r.b ++ s.r.c
  | .de => s.r.d ++ s.r.e
  | .hl => s.r.h ++ s.r.l
  | .sp => s.sp
  | .pc => s.pc

/-- The state after the snapshot interface writes a 16-bit register or view (R13 to R15, R17, R288). -/
def viewWrite (p : Pair) (v : Word) (s : State) : State :=
  match p with
  | .af => stackWrite .af v s
  | .bc => pairWrite .bc v s
  | .de => pairWrite .de v s
  | .hl => pairWrite .hl v s
  | .sp => { s with sp := v }
  | .pc => { s with pc := v }

/-- The flag of a name (R12). -/
def flagValue (s : State) : FlagName → Bool
  | .z => s.f.z | .n => s.f.n | .h => s.f.h | .c => s.f.c

/-- The state after one flag is set (R12, R288). -/
def flagWrite (g : FlagName) (v : Bool) (s : State) : State :=
  match g with
  | .z => { s with f := { s.f with z := v } }
  | .n => { s with f := { s.f with n := v } }
  | .h => { s with f := { s.f with h := v } }
  | .c => { s with f := { s.f with c := v } }

/-- The address of a Memory-mode operand, HL before any change (R24). -/
def memAddress (s : State) : R16Mem → Word
  | .bc => s.r.b ++ s.r.c
  | .de => s.r.d ++ s.r.e
  | .hlInc => s.r.h ++ s.r.l
  | .hlDec => s.r.h ++ s.r.l

/-- The state after a Memory-mode operand is resolved: HL one on, one back, or as it was (R24). -/
def memResolve (p : R16Mem) (s : State) : State :=
  match p with
  | .bc => s
  | .de => s
  | .hlInc => pairWrite .hl (pairValue s .hl + 1) s
  | .hlDec => pairWrite .hl (pairValue s .hl - 1) s

/-- The address `0xFF00 + n` (R78, R94). -/
def highAddress (n : Byte) : Word := BitVec.ofNat 16 (0xFF00 + n.toNat)

/-! ## Arithmetic (R140, R141, R147 to R149, R170, R171) -/

/-- The flags of `add8(a, x, c)` (R140), over the integers. -/
def sumFlags (a x c : Nat) : Flags :=
  { z := decide ((a + x + c) % 256 = 0), n := false
    h := decide (a % 16 + x % 16 + c > 15), c := decide (a + x + c > 255) }

/-- The flags of `sub8(a, x, c)` (R141), over the integers (`x + c` is at most 256). -/
def diffFlags (a x c : Nat) : Flags :=
  { z := decide ((a + 512 - (x + c)) % 256 = 0), n := true
    h := decide (a % 16 < x % 16 + c), c := decide (a < x + c) }

/-- `(A, F) <- add8(A, x, c)` -/
def addEffect (x : Byte) (c : Bool) (s : State) : State :=
  { s with
    r := { s.r with a := BitVec.ofNat 8 (s.r.a.toNat + x.toNat + c.toNat) }
    f := sumFlags s.r.a.toNat x.toNat c.toNat }

/-- `(A, F) <- sub8(A, x, c)` -/
def subEffect (x : Byte) (c : Bool) (s : State) : State :=
  { s with
    r := { s.r with a := BitVec.ofNat 8 (s.r.a.toNat + 512 - (x.toNat + c.toNat)) }
    f := diffFlags s.r.a.toNat x.toNat c.toNat }

/-- `A <- v` with Z by the result, N and C cleared, and H as given. -/
def logicEffect (v : Byte) (h : Bool) (s : State) : State :=
  { s with r := { s.r with a := v }, f := { z := decide (v = 0), n := false, h := h, c := false } }

/-- The flags of `spadd(n)` (R171): from the unsigned low bytes, Z and N cleared. -/
def spFlags (sp : Word) (n : Byte) : Flags :=
  { z := false, n := false
    h := decide (sp.toNat % 16 + n.toNat % 16 > 15), c := decide (sp.toNat % 256 + n.toNat > 255) }

/-- The result of `spadd(n)` (R171): SP plus `sext_16(n)`, which is `n` if `n < 0x80`, else `n + 0xFF00` (R8). -/
def spResult (sp : Word) (n : Byte) : Word :=
  BitVec.ofNat 16 (sp.toNat + (if n.toNat < 0x80 then n.toNat else n.toNat + 0xFF00))

/-! ## The opcodes of classes A, I and U, as R211 to R230 and R241 to R255 list them -/

/-- Class A (R211 to R229): the instruction and its opcode byte. -/
def absentOpcodes : List (Instr × Byte) :=
  [(.rlca, 0x07), (.rrca, 0x0F), (.rla, 0x17), (.rra, 0x1F), (.jrE8, 0x18),
   (.jrCcE8 .nz, 0x20), (.jrCcE8 .z, 0x28), (.jrCcE8 .nc, 0x30), (.jrCcE8 .c, 0x38), (.halt, 0x76),
   (.retCc .nz, 0xC0), (.retCc .z, 0xC8), (.retCc .nc, 0xD0), (.retCc .c, 0xD8), (.ret, 0xC9), (.reti, 0xD9)] ++
  [(.jpCcA16 .nz, 0xC2), (.jpCcA16 .z, 0xCA), (.jpCcA16 .nc, 0xD2), (.jpCcA16 .c, 0xDA), (.jpA16, 0xC3), (.jpHl, 0xE9),
   (.callCcA16 .nz, 0xC4), (.callCcA16 .z, 0xCC), (.callCcA16 .nc, 0xD4), (.callCcA16 .c, 0xDC), (.callA16, 0xCD)] ++
  [(.rstTgt 0, 0xC7), (.rstTgt 1, 0xCF), (.rstTgt 2, 0xD7), (.rstTgt 3, 0xDF),
   (.rstTgt 4, 0xE7), (.rstTgt 5, 0xEF), (.rstTgt 6, 0xF7), (.rstTgt 7, 0xFF),
   (.di, 0xF3), (.ei, 0xFB), (.prefixCb, 0xCB)]

/-- Class I (R230). -/
def noInstructionOpcodes : List (Instr × Byte) :=
  [(.illegalD3, 0xD3), (.illegalDB, 0xDB), (.illegalDD, 0xDD), (.illegalE3, 0xE3), (.illegalE4, 0xE4), (.illegalEB, 0xEB),
   (.illegalEC, 0xEC), (.illegalED, 0xED), (.illegalF4, 0xF4), (.illegalFC, 0xFC), (.illegalFD, 0xFD)]

/-- Class U (R241 to R255). -/
def unnamedOpcodes : List (Instr × Byte) :=
  [(.incR16 .bc, 0x03), (.incR16 .de, 0x13), (.incR16 .hl, 0x23), (.incR16 .sp, 0x33),
   (.decR16 .bc, 0x0B), (.decR16 .de, 0x1B), (.decR16 .hl, 0x2B), (.decR16 .sp, 0x3B),
   (.ldA16Sp, 0x08), (.stop, 0x10), (.daa, 0x27), (.cpl, 0x2F), (.scf, 0x37), (.ccf, 0x3F)] ++
  [(.cpAR8 .b, 0xB8), (.cpAR8 .c, 0xB9), (.cpAR8 .d, 0xBA), (.cpAR8 .e, 0xBB), (.cpAR8 .h, 0xBC), (.cpAR8 .l, 0xBD),
   (.cpAR8 .mHL, 0xBE), (.cpAR8 .a, 0xBF), (.cpAImm8, 0xFE), (.ldhCA, 0xE2), (.ldhAC, 0xF2), (.ldA16A, 0xEA),
   (.ldAA16, 0xFA), (.ldSpHl, 0xF9)]

/-! ## Tables over all instructions (R27, R40, R180, R320) -/

/-- One data access if the operand is `[HL]`. -/
def memCost (i : R8) : Nat := if i = .mHL then 1 else 0

/-- The total of R320's table. A class A or I opcode takes 1; a class U opcode, for which there is no count, never completes. -/
def cycleCount (p : Params) : Instr → Nat
  | .nop => 1
  | .ldR8R8 dst src => 1 + memCost dst + memCost src
  | .ldR8Imm8 r _ => 2 + memCost r
  | .ldR16memA _ | .ldAR16mem _ => 2
  | .ldhA8A _ | .ldhAA8 _ => 3
  | .ldR16Imm16 _ _ => 3
  | .pushR16stk _ => 4
  | .popR16stk _ => 3
  | .addAR8 r | .adcAR8 r | .subAR8 r | .sbcAR8 r | .andAR8 r | .xorAR8 r | .orAR8 r => 1 + memCost r
  | .addAImm8 _ | .adcAImm8 _ | .subAImm8 _ | .sbcAImm8 _ | .andAImm8 _ | .xorAImm8 _ | .orAImm8 _ => 2
  | .incR8 r | .decR8 r => 1 + 2 * memCost r
  | .addHlR16 _ => 2
  | .addSpE8 _ => 2 + p.icycAddSp
  | .ldHlSpE8 _ => 2 + p.icycLdHlSp
  | _ => 1

/-- Which flags an instruction writes (R40): true where the table has a value and not "unchanged". -/
def flagsWritten : Instr → Flags
  | .addAR8 _ | .adcAR8 _ | .subAR8 _ | .sbcAR8 _ | .andAR8 _ | .xorAR8 _ | .orAR8 _
  | .addAImm8 _ | .adcAImm8 _ | .subAImm8 _ | .sbcAImm8 _ | .andAImm8 _ | .xorAImm8 _ | .orAImm8 _
  | .addSpE8 _ | .ldHlSpE8 _ => { z := true, n := true, h := true, c := true }
  | .popR16stk p => { z := p == .af, n := p == .af, h := p == .af, c := p == .af }
  | .incR8 _ | .decR8 _ => { z := true, n := true, h := true, c := false }
  | .addHlR16 _ => { z := false, n := true, h := true, c := true }
  | _ => { z := false, n := false, h := false, c := false }

/-- Whether an instruction reads a flag as an input (R40): `ADC`, `SBC` and `PUSH AF`. -/
def readsFlags : Instr → Bool
  | .adcAR8 _ | .adcAImm8 _ | .sbcAR8 _ | .sbcAImm8 _ => true
  | .pushR16stk p => p == .af
  | _ => false

/-- The halves of a pair in Normal mode (R13, R22). -/
def pairRegs : R16 → List R8
  | .bc => [.b, .c] | .de => [.d, .e] | .hl => [.h, .l] | .sp => []

/-- The registers of a pair in Stack mode (R13, R23). -/
def stackRegs : R16Stk → List R8
  | .bc => [.b, .c] | .de => [.d, .e] | .hl => [.h, .l] | .af => [.a]

/-- The registers that resolving a Memory-mode operand writes: HL in the auto-index forms (R24). -/
def indexRegs : R16Mem → List R8
  | .bc => [] | .de => [] | .hlInc => [.h, .l] | .hlDec => [.h, .l]

/-- Which 8-bit registers an instruction writes (R27, R181 to R187, R200 to R202): its destination, and HL in the auto-index
forms. -/
def regsWritten : Instr → List R8
  | .addAR8 _ | .adcAR8 _ | .subAR8 _ | .sbcAR8 _ | .andAR8 _ | .xorAR8 _ | .orAR8 _
  | .addAImm8 _ | .adcAImm8 _ | .subAImm8 _ | .sbcAImm8 _ | .andAImm8 _ | .xorAImm8 _ | .orAImm8 _
  | .ldhAA8 _ => [.a]
  | .incR8 r | .decR8 r | .ldR8Imm8 r _ | .ldR8R8 r _ => [r]
  | .addHlR16 _ | .ldHlSpE8 _ => [.h, .l]
  | .ldR16memA p => indexRegs p
  | .ldAR16mem p => .a :: indexRegs p
  | .ldR16Imm16 p _ => pairRegs p
  | .popR16stk p => stackRegs p
  | _ => []

/-- Whether an instruction writes SP (R14). -/
def writesSp : Instr → Bool
  | .ldR16Imm16 p _ => p == .sp
  | .addSpE8 _ | .pushR16stk _ | .popR16stk _ => true
  | _ => false

/-- The address an 8-bit destination operand stores to: HL for `[HL]`, none for a register (R21). -/
def storesAt (s : State) (r : R8) : List Word := if r = .mHL then [s.r.hl] else []

/-- The addresses an instruction stores a byte to (R180), by the functions its meaning uses; none for every other form. -/
def storeAddresses (s : State) : Instr → List Word
  | .incR8 r | .decR8 r | .ldR8Imm8 r _ => storesAt s r
  | .ldR8R8 dst src => if src = .mHL then [] else storesAt s dst
  | .ldR16memA p => [(s.r16mem p).1]
  | .ldhA8A n => [highPage n]
  | .pushR16stk _ => [s.sp - 1, s.sp - 2]
  | _ => []

/-- Two addresses show one byte (R54). -/
def sameByte (b : Bus) (a a' : Word) : Prop := b.map a = b.map a' ∧ b.map a ≠ none

/-- "backing-array contents are untouched and remain visible again if the bank is switched back" (R55), for one switch and the
index it sets: map another bank, write a byte at any address, and map the first bank again; every slot is the old one, and every
address shows its old byte, but those that show the byte written. -/
def oldBytesBack (switch : Nat → Move) (bank : Bus → Nat) : Prop :=
  ∀ (s t u v : State) (n : Nat) (a : Word) (x : Nat), s.Inv →
    applyMove (switch n) s = .next t → applyMove (.write a x) t = .next u →
    applyMove (switch (bank s.bus)) u = .next v →
    ∀ a' : Word, v.bus.map a' = s.bus.map a' ∧
      v.bus.byteAt a' =
        if t.bus.map a = s.bus.map a' ∧ t.bus.map a ≠ none then BitVec.ofNat 8 x else s.bus.byteAt a'

/-- Two states with the same registers, flags, SP, PC, arrays and banks; `cycles`, `events` and parameters may differ. -/
def sameCore (s s' : State) : Prop :=
  s.r = s'.r ∧ s.f = s'.f ∧ s.sp = s'.sp ∧ s.pc = s'.pc ∧ s.bus = s'.bus

/-- What a step that starts in `s` may record (R270, R271): an unmapped access in the unusable range, or an unknown opcode
with the byte at PC, the address PC, and a byte of class A or I. -/
def mayRecord (s : State) : Event → Prop
  | .unmappedAccess _ a => 0xFEA0 ≤ a.toNat ∧ a.toNat ≤ 0xFEFF
  | .unknownOpcode op a =>
    op = s.bus.byteAt s.pc ∧ a = s.pc ∧
      ∃ row, rowOf op = some row ∧ (row.cls = .absent ∨ row.cls = .noInstruction)

end Sys2Proof.Spec

open Sys2Proof Sys2Proof.Machine Sys2Proof.Spec

/-! ## Encoding -/

/-- Decoding the bytes of a well-formed instruction gives it back, with every operand (R90, R93, R97, R105). -/
def Obligations.DecodeOfEncodeIsIdentity : Prop :=
  ∀ (i : Instr) (rest : List Byte), i.wellFormed = true → decode (encode i ++ rest) = .ok (i, rest)

/-- Whatever bytes decode to an instruction are that instruction's bytes, and it is well-formed: every word has one meaning
(R96, R100, R105). -/
def Obligations.EncodeOfDecodeIsIdentity : Prop :=
  ∀ (bs rest : List Byte) (i : Instr), decode bs = .ok (i, rest) → i.wellFormed = true ∧ encode i ++ rest = bs

/-- "The opcode byte alone decides the length" (R90): for every opcode there is one length, 1, 2 or 3, and any bytes that
follow decode to an instruction of that length. -/
def Obligations.OpcodeByteAloneDecidesLength : Prop :=
  ∀ op : Byte, ∃ n : Nat, 1 ≤ n ∧ n ≤ 3 ∧
    ∀ (b2 b3 : Byte) (rest : List Byte), ∃ i : Instr,
      decode (op :: b2 :: b3 :: rest) = .ok (i, (op :: b2 :: b3 :: rest).drop n) ∧ i.length = n

/-- Words written out from the patterns of R93 and R97, one or more of each family, decode to the instruction they stand for. -/
def Obligations.WrittenOutWordsDecode : Prop :=
  decode [0b00000000] = .ok (.nop, []) ∧
  decode [0b11000110, 0x7F] = .ok (.addAImm8 0x7F, []) ∧
  decode [0b10011100] = .ok (.sbcAR8 .h, []) ∧
  decode [0b00110100] = .ok (.incR8 .mHL, []) ∧
  decode [0b00111001] = .ok (.addHlR16 .sp, []) ∧
  decode [0b11111000, 0xFE] = .ok (.ldHlSpE8 0xFE, []) ∧
  decode [0b01110000] = .ok (.ldR8R8 .mHL .b, []) ∧
  decode [0b00110010] = .ok (.ldR16memA .hlDec, []) ∧
  decode [0b00100001, 0x34, 0x12] = .ok (.ldR16Imm16 .hl 0x1234, []) ∧
  decode [0b11110101] = .ok (.pushR16stk .af, []) ∧
  decode [0b01110110] = .ok (.halt, []) ∧
  decode [0b11111110, 0x10] = .ok (.cpAImm8, [0x10]) ∧
  decode [0b11011101] = .ok (.illegalDD, [])

/-- The five-strategy search of R95 with the keys of R98 finds, for every opcode, the instruction of the flat table where the
opcode is of class P or is 0x76 (whose entry faults), and no handler everywhere else (R123). -/
def Obligations.StrategySearchAgreesWithTable : Prop :=
  ∀ (op n h : Byte) (row : OpcodeRow), rowOf op = some row →
    strategySearch op n h = if row.cls = .present ∨ op = 0x76 then some (row.build op n h) else none

/-- "The rows are disjoint except for one pair": every opcode matches one row, 0x76 two, HALT's first (R105); and the class
sizes of R96: 179, 38, 11 and 28 values. -/
def Obligations.TableRowsDisjointButForHalt : Prop :=
  (∀ op : Byte, (opcodeTable.filter fun row => op &&& row.mask == row.pattern).length = if op = 0x76 then 2 else 1) ∧
  ((rowOf 0x76).map fun row => row.build 0x76 0 0) = some .halt ∧
  (∀ c : OpClass,
    ((List.range 256).filter fun k => (rowOf (BitVec.ofNat 8 k)).map (fun row => row.cls) == some c).length =
      match c with
      | .present => 179
      | .absent => 38
      | .noInstruction => 11
      | .unnamed => 28)

/-! ## The step -/

/-- Where the three bytes at PC decode to `i`, `step` is `exec i` at the state after the bytes of `i` alone have been fetched,
each with its cycle, PC past it, and its condition if it is unmapped (R120, R121, R127). -/
def Obligations.StepRunsTheDecodedInstruction : Prop :=
  ∀ (s : State) (i : Instr) (rest : List Byte),
    decode [s.bus.byteAt s.pc, s.bus.byteAt (s.pc + 1), s.bus.byteAt (s.pc + 2)] = .ok (i, rest) →
      step s = exec i (afterFetch i.length s)

/-- "A step ends in exactly one of three ways" (R125): class P completes, with a cycle count of at least 1, and records no
unknown opcode; class A and I record `UnknownOpcode(op, PC)` and change PC and `cycles` alone; class U is refused. -/
def Obligations.StepEndsInOneOfThreeWays : Prop :=
  ∀ (s : State) (row : OpcodeRow), rowOf (s.bus.byteAt s.pc) = some row →
    (row.cls = .present →
      ∃ t es, step s = .next t ∧ 1 ≤ t.cycles ∧ t.events = s.events ++ es ∧
        ∀ op a, Event.unknownOpcode op a ∉ es) ∧
    (row.cls = .absent ∨ row.cls = .noInstruction →
      step s = .next { s with
        pc := s.pc + 1, cycles := 1
        events := s.events ++ [.unknownOpcode (s.bus.byteAt s.pc) s.pc] }) ∧
    (row.cls = .unnamed → step s = .refused (.notSpecified (s.bus.byteAt s.pc)))

/-- Every step keeps the invariant: the arrays stay in canonical form inside their sizes, the banks and parameters legal. -/
def Obligations.StepKeepsTheInvariant : Prop :=
  ∀ s t : State, s.Inv → step s = .next t → t.Inv

/-- The state after reset meets the invariant. -/
def Obligations.ResetMeetsTheInvariant : Prop := State.reset.Inv

/-- Whatever the host and its collaborators do, steps and moves in any order (R289), the invariant is kept. -/
def Obligations.SessionsKeepTheInvariant : Prop :=
  ∀ (xs : List Action) (s t : State), s.Inv → runActions xs s = .next t → t.Inv

/-- "No instruction in scope ... writes [PC] other than by fetching" (R15): after a step PC stands past the bytes of the
instruction, modulo 65536. -/
def Obligations.ProgramCounterMovesByFetchingAlone : Prop :=
  ∀ (s t : State) (i : Instr) (rest : List Byte),
    decode [s.bus.byteAt s.pc, s.bus.byteAt (s.pc + 1), s.bus.byteAt (s.pc + 2)] = .ok (i, rest) →
      step s = .next t → t.pc = s.pc + BitVec.ofNat 16 i.length

/-- The cycle counts of R320's table are what `step()` returns. -/
def Obligations.StepReturnsTheTabledCycles : Prop :=
  ∀ (s t : State) (i : Instr) (rest : List Byte),
    decode [s.bus.byteAt s.pc, s.bus.byteAt (s.pc + 1), s.bus.byteAt (s.pc + 2)] = .ok (i, rest) →
      step s = .next t → t.cycles = cycleCount s.params i

/-- "Events are never cleared by a step" (R33), and a step records only what R270 and R271 name. -/
def Obligations.StepAddsOnlyTheNamedConditions : Prop :=
  ∀ s t : State, step s = .next t → ∃ es, t.events = s.events ++ es ∧ ∀ e ∈ es, mayRecord s e

/-- "banks switch only when a collaborator calls the bank-switch interface" (R34, R287): no step changes a bank, a parameter,
or any slot of the map. -/
def Obligations.NoStepSwitchesABank : Prop :=
  ∀ s t : State, step s = .next t →
    t.bus.romBank = s.bus.romBank ∧ t.bus.wramBank = s.bus.wramBank ∧ t.params = s.params ∧
    ∀ a : Word, t.bus.map a = s.bus.map a

/-- The memory frame: an instruction changes no byte but those at the addresses it stores to, and the addresses that show the
same byte (R54, R61); where it stores nothing, every address reads as before. -/
def Obligations.OnlyStoredBytesChange : Prop :=
  ∀ (i : Instr) (s t : State), s.Inv → exec i s = .next t →
    ∀ a' : Word, (∀ a ∈ storeAddresses s i, ¬ sameByte s.bus a a') → t.bus.byteAt a' = s.bus.byteAt a'

/-- The flag frame (R40, R187): a flag that R40's table calls unchanged is unchanged. -/
def Obligations.OnlyTabledFlagsChange : Prop :=
  ∀ (i : Instr) (s t : State), exec i s = .next t →
    ((flagsWritten i).z = false → t.f.z = s.f.z) ∧ ((flagsWritten i).n = false → t.f.n = s.f.n) ∧
    ((flagsWritten i).h = false → t.f.h = s.f.h) ∧ ((flagsWritten i).c = false → t.f.c = s.f.c)

/-- The register frame (R27, R14, R187): every register but the destination (and HL in the auto-index forms) is unchanged,
SP where the instruction is no stack or SP instruction; `exec` leaves PC alone. -/
def Obligations.OnlyDestinationRegistersChange : Prop :=
  ∀ (i : Instr) (s t : State), exec i s = .next t →
    (∀ r : R8, r ≠ .mHL → r ∉ regsWritten i → operand t r = operand s r) ∧
    (writesSp i = false → t.sp = s.sp) ∧ t.pc = s.pc

/-- The flags are inputs of `ADC`, `SBC` and `PUSH AF` alone (R40): every other instruction does the same to registers, SP,
PC, memory and `cycles` whatever the flags are, and gives each flag it writes the same value. -/
def Obligations.OtherInstructionsIgnoreFlags : Prop :=
  ∀ (i : Instr) (s t : State) (g : Flags), readsFlags i = false → exec i s = .next t →
    ∃ u, exec i { s with f := g } = .next u ∧
      u.r = t.r ∧ u.sp = t.sp ∧ u.pc = t.pc ∧ u.bus = t.bus ∧ u.cycles = t.cycles ∧ u.events = t.events ∧
      ((flagsWritten i).z = true → u.f.z = t.f.z) ∧ ((flagsWritten i).n = true → u.f.n = t.f.n) ∧
      ((flagsWritten i).h = true → u.f.h = t.f.h) ∧ ((flagsWritten i).c = true → u.f.c = t.f.c)

/-- "No rule that computes a register, a flag or a memory byte reads `cycles`" (R124), nor the record of conditions, nor a
parameter: two states that agree elsewhere step to states that agree, and are refused alike. -/
def Obligations.ResultsIgnoreCyclesAndEvents : Prop :=
  ∀ s s' : State, sameCore s s' →
    (∀ t, step s = .next t → ∃ t', step s' = .next t' ∧ sameCore t t') ∧
    (∀ e, step s = .refused e → step s' = .refused e)

/-- "the next `step()` discards that by its reset to 0" (R29): a collaborator's bus read between two steps charges a cycle and
may record a condition, but the next step gives the same registers, memory and count as without it. -/
def Obligations.CyclesBetweenStepsAreLost : Prop :=
  ∀ (s t : State) (a : Word), step s = .next t →
    ∃ u v, applyMove (.read a) s = .next u ∧ u.cycles = s.cycles + 1 ∧
      step u = .next v ∧ sameCore t v ∧ v.cycles = t.cycles

/-- "A store by one step is seen by the fetch of the next step" (R75): after `LD [HL],r8` to the byte that follows it, the
next step runs what the stored byte decodes to. -/
def Obligations.StoredByteIsFetchedNext : Prop :=
  ∀ (s : State) (src : R8) (i : Instr) (rest : List Byte), s.Inv → src ≠ .mHL →
    s.bus.byteAt s.pc = 0b01110#5 ++ src.code → s.r.hl = s.pc + 1 → s.bus.map s.r.hl ≠ none →
    decode [operand s src] = .ok (i, rest) →
      ∃ t, step s = .next t ∧ t.pc = s.pc + 1 ∧ step t = exec i (afterFetch 1 t)

/-! ## Memory -/

/-- "`map[a] = unmapped` exactly when `0xFEA0 <= a <= 0xFEFF`" (R52), whatever banks are mapped. -/
def Obligations.OnlyTheUnusableRangeIsUnmapped : Prop :=
  ∀ (b : Bus) (a : Word), b.map a = none ↔ 0xFEA0 ≤ a.toNat ∧ a.toNat ≤ 0xFEFF

/-- The address table of R51, row by row, and the byte at 0xFFFF (R57). -/
def Obligations.MapIsTheAddressTable : Prop :=
  ∀ (b : Bus) (a : Word),
    (a.toNat ≤ 0x3FFF → b.map a = some (.rom, a.toNat)) ∧
    (0x4000 ≤ a.toNat → a.toNat ≤ 0x7FFF → b.map a = some (.rom, b.romBank * 0x4000 + (a.toNat - 0x4000))) ∧
    (0x8000 ≤ a.toNat → a.toNat ≤ 0x9FFF → b.map a = some (.vram, a.toNat - 0x8000)) ∧
    (0xA000 ≤ a.toNat → a.toNat ≤ 0xBFFF → b.map a = some (.eram, a.toNat - 0xA000)) ∧
    (0xC000 ≤ a.toNat → a.toNat ≤ 0xCFFF → b.map a = some (.wram, a.toNat - 0xC000)) ∧
    (0xD000 ≤ a.toNat → a.toNat ≤ 0xDFFF → b.map a = some (.wram, b.wramBank * 0x1000 + (a.toNat - 0xD000))) ∧
    (0xE000 ≤ a.toNat → a.toNat ≤ 0xEFFF → b.map a = some (.wram, a.toNat - 0xE000)) ∧
    (0xF000 ≤ a.toNat → a.toNat ≤ 0xFDFF → b.map a = some (.wram, b.wramBank * 0x1000 + (a.toNat - 0xF000))) ∧
    (0xFE00 ≤ a.toNat → a.toNat ≤ 0xFE9F → b.map a = some (.oam, a.toNat - 0xFE00)) ∧
    (0xFEA0 ≤ a.toNat → a.toNat ≤ 0xFEFF → b.map a = none) ∧
    (0xFF00 ≤ a.toNat → a.toNat ≤ 0xFF7F → b.map a = some (.io, a.toNat - 0xFF00)) ∧
    (0xFF80 ≤ a.toNat → b.map a = some (.hram, a.toNat - 0xFF80)) ∧
    b.map 0xFFFF = some (.hram, 0x7F)

/-- The aliases of R54 (a) to (d). -/
def Obligations.EchoWindowsNameTheSameByte : Prop :=
  ∀ b : Bus,
    (∀ k : Nat, k ≤ 0xFFF → b.map (BitVec.ofNat 16 (0xE000 + k)) = b.map (BitVec.ofNat 16 (0xC000 + k))) ∧
    (∀ k : Nat, k ≤ 0xDFF → b.map (BitVec.ofNat 16 (0xF000 + k)) = b.map (BitVec.ofNat 16 (0xD000 + k))) ∧
    (b.romBank = 0 → ∀ k : Nat, k ≤ 0x3FFF → b.map (BitVec.ofNat 16 (0x4000 + k)) = b.map (BitVec.ofNat 16 k)) ∧
    (b.wramBank = 0 → ∀ k : Nat, k ≤ 0xFFF →
      b.map (BitVec.ofNat 16 (0xD000 + k)) = b.map (BitVec.ofNat 16 (0xC000 + k)) ∧
      b.map (BitVec.ofNat 16 (0xE000 + k)) = b.map (BitVec.ofNat 16 (0xC000 + k)) ∧
      (k < 0xE00 → b.map (BitVec.ofNat 16 (0xF000 + k)) = b.map (BitVec.ofNat 16 (0xC000 + k))))

/-- `MemRead(a, 1)` (R60): one cycle, the byte of the slot, or 0 and `UnmappedAccess(read, a)`; no array and no slot changes. -/
def Obligations.BusReadFollowsItsRule : Prop :=
  ∀ (s : State) (a : Word),
    (s.busRead a).1 = (match s.bus.map a with
      | none => 0
      | some (arr, off) => Memory.read off (s.bus.array arr)) ∧
    (s.busRead a).2 = { s with
      cycles := s.cycles + 1
      events := s.events ++ (if s.bus.map a = none then [.unmappedAccess .read a] else []) }

/-- `MemWrite(a, 1, v)` (R61): one cycle; a mapped slot's byte becomes `v` at every address that shows it and no other byte of
any array changes; an unmapped slot discards the byte and records `UnmappedAccess(write, a)`. -/
def Obligations.BusWriteFollowsItsRule : Prop :=
  ∀ (s : State) (a : Word) (v : Byte), s.Inv →
    s.busWrite a v = { s with
      bus := (s.busWrite a v).bus, cycles := s.cycles + 1
      events := s.events ++ (if s.bus.map a = none then [.unmappedAccess .write a] else []) } ∧
    (∀ arr off, Memory.read off ((s.busWrite a v).bus.array arr) =
      if s.bus.map a = some (arr, off) then v else Memory.read off (s.bus.array arr)) ∧
    (∀ a' : Word, ((s.busWrite a v).bus.map a' = s.bus.map a') ∧
      (sameByte s.bus a a' → (s.busWrite a v).bus.byteAt a' = v) ∧
      (¬ sameByte s.bus a a' → (s.busWrite a v).bus.byteAt a' = s.bus.byteAt a')) ∧
    (s.bus.map a = none → (s.busWrite a v).bus = s.bus)

/-- Two arrays in canonical form that read alike at every offset are the same list. -/
def Obligations.EqualContentsAreEqualData : Prop :=
  ∀ (size : Nat) (m m' : Memory), Memory.wf size m = true → Memory.wf size m' = true →
    (∀ k, k < size → Memory.read k m = Memory.read k m') → m = m'

/-- `map ROM bank N` and `map WRAM bank N` (R55, R58, R59): a legal index rewrites the slots of the window, for working RAM those
of its echo too at the 4 KiB stride, and nothing else: no array, no register, no cycle; switching back gives the state before.
An illegal index is refused, and no other move changes a slot. -/
def Obligations.BankSwitchRewritesItsWindowOnly : Prop :=
  ∀ (s : State) (n : Nat),
    (n < s.params.romSize / 0x4000 → ∃ b : Bus,
      applyMove (.mapRomBank n) s = .next { s with bus := b } ∧ b.romBank = n ∧ b.wramBank = s.bus.wramBank ∧
      (∀ arr, b.array arr = s.bus.array arr) ∧
      (∀ a : Word, b.map a =
        if 0x4000 ≤ a.toNat ∧ a.toNat ≤ 0x7FFF then some (.rom, n * 0x4000 + (a.toNat - 0x4000)) else s.bus.map a) ∧
      (s.bus.romBank < s.params.romSize / 0x4000 →
        applyMove (.mapRomBank s.bus.romBank) { s with bus := b } = .next s)) ∧
    (s.params.romSize / 0x4000 ≤ n → applyMove (.mapRomBank n) s = .refused (.illegalBankIndex n)) ∧
    (n < s.params.wramBanks → ∃ b : Bus,
      applyMove (.mapWramBank n) s = .next { s with bus := b } ∧ b.wramBank = n ∧ b.romBank = s.bus.romBank ∧
      (∀ arr, b.array arr = s.bus.array arr) ∧
      (∀ a : Word, b.map a =
        if 0xD000 ≤ a.toNat ∧ a.toNat ≤ 0xDFFF then some (.wram, n * 0x1000 + (a.toNat - 0xD000))
        else if 0xF000 ≤ a.toNat ∧ a.toNat ≤ 0xFDFF then some (.wram, n * 0x1000 + (a.toNat - 0xF000))
        else s.bus.map a) ∧
      (s.bus.wramBank < s.params.wramBanks →
        applyMove (.mapWramBank s.bus.wramBank) { s with bus := b } = .next s)) ∧
    (s.params.wramBanks ≤ n → applyMove (.mapWramBank n) s = .refused (.illegalBankIndex n)) ∧
    (∀ (m : Move) (t : State), (∀ k, m ≠ .mapRomBank k ∧ m ≠ .mapWramBank k) → applyMove m s = .next t →
      ∀ a : Word, t.bus.map a = s.bus.map a)

/-- Switching a bank back shows the old bytes, for either switchable window (R55, R58, R61). -/
def Obligations.SwitchingBackShowsTheOldBytes : Prop :=
  oldBytesBack Move.mapRomBank Bus.romBank ∧ oldBytesBack Move.mapWramBank Bus.wramBank

/-- R69: an opcode fetched from the unusable range runs as `NOP` with its event (a); any byte read there is 0 (b); `INC [HL]`
there computes from 0 and its write is lost (c); `PUSH` there loses both bytes and `POP` reads zeros (d). -/
def Obligations.UnusableRangeReadsZeroAndDropsWrites : Prop :=
  (∀ s : State, 0xFEA0 ≤ s.pc.toNat → s.pc.toNat ≤ 0xFEFF →
    step s = .next { s with
      pc := s.pc + 1, cycles := 1, events := s.events ++ [.unmappedAccess .read s.pc] }) ∧
  (∀ (b : Bus) (a : Word), 0xFEA0 ≤ a.toNat → a.toNat ≤ 0xFEFF → b.byteAt a = 0) ∧
  (∀ s : State, 0xFEA0 ≤ s.r.hl.toNat → s.r.hl.toNat ≤ 0xFEFF →
    exec (.incR8 .mHL) s = .next { s with
      f := { z := false, n := false, h := false, c := s.f.c }, cycles := s.cycles + 2
      events := s.events ++ [.unmappedAccess .read s.r.hl, .unmappedAccess .write s.r.hl] }) ∧
  (∀ (s : State) (p : R16Stk), 0xFEA2 ≤ s.sp.toNat → s.sp.toNat ≤ 0xFF00 →
    exec (.pushR16stk p) s = .next { s with
      sp := s.sp - 2, cycles := s.cycles + 3
      events := s.events ++ [.unmappedAccess .write (s.sp - 1), .unmappedAccess .write (s.sp - 2)] }) ∧
  (∀ (s : State) (p : R16Stk), 0xFEA0 ≤ s.sp.toNat → s.sp.toNat ≤ 0xFEFE →
    exec (.popR16stk p) s = .next (stackWrite p 0 { s with
      sp := s.sp + 2, cycles := s.cycles + 2
      events := s.events ++ [.unmappedAccess .read s.sp, .unmappedAccess .read (s.sp + 1)] }))

/-! ## Instructions: the result, the flags, the cycles, the encoding and the frame of each, in every state -/

/-- `NOP` (R129). -/
def Obligations.NopEffect : Prop := HasEffect .nop [0x00] fun s => s

/-- `ADD A,r8` and `ADC A,r8` (R143, R144, with R140, R142). -/
def Obligations.AddAndAdcRegisterEffect : Prop :=
  ∀ r : R8,
    HasEffect (.addAR8 r) [0b10000#5 ++ r.code] (fun s => addEffect (operand s r) false (operandRead r s)) ∧
    HasEffect (.adcAR8 r) [0b10001#5 ++ r.code] (fun s => addEffect (operand s r) s.f.c (operandRead r s))

/-- `SUB A,r8` and `SBC A,r8` (R145, R146, with R141, R142). -/
def Obligations.SubAndSbcRegisterEffect : Prop :=
  ∀ r : R8,
    HasEffect (.subAR8 r) [0b10010#5 ++ r.code] (fun s => subEffect (operand s r) false (operandRead r s)) ∧
    HasEffect (.sbcAR8 r) [0b10011#5 ++ r.code] (fun s => subEffect (operand s r) s.f.c (operandRead r s))

/-- `AND A,r8`, `XOR A,r8`, `OR A,r8` (R147, R148, R149). -/
def Obligations.LogicRegisterEffect : Prop :=
  ∀ r : R8,
    HasEffect (.andAR8 r) [0b10100#5 ++ r.code] (fun s => logicEffect (s.r.a &&& operand s r) true (operandRead r s)) ∧
    HasEffect (.xorAR8 r) [0b10101#5 ++ r.code] (fun s => logicEffect (s.r.a ^^^ operand s r) false (operandRead r s)) ∧
    HasEffect (.orAR8 r) [0b10110#5 ++ r.code] (fun s => logicEffect (s.r.a ||| operand s r) false (operandRead r s))

/-- `ADD A,imm8` and `ADC A,imm8` (R150, R151). -/
def Obligations.AddAndAdcImmediateEffect : Prop :=
  ∀ n : Byte,
    HasEffect (.addAImm8 n) [0xC6, n] (addEffect n false) ∧
    HasEffect (.adcAImm8 n) [0xCE, n] (fun s => addEffect n s.f.c s)

/-- `SUB A,imm8` and `SBC A,imm8` (R152, R153). -/
def Obligations.SubAndSbcImmediateEffect : Prop :=
  ∀ n : Byte,
    HasEffect (.subAImm8 n) [0xD6, n] (subEffect n false) ∧
    HasEffect (.sbcAImm8 n) [0xDE, n] (fun s => subEffect n s.f.c s)

/-- `AND A,imm8`, `XOR A,imm8`, `OR A,imm8` (R154, R155, R156). -/
def Obligations.LogicImmediateEffect : Prop :=
  ∀ n : Byte,
    HasEffect (.andAImm8 n) [0xE6, n] (fun s => logicEffect (s.r.a &&& n) true s) ∧
    HasEffect (.xorAImm8 n) [0xEE, n] (fun s => logicEffect (s.r.a ^^^ n) false s) ∧
    HasEffect (.orAImm8 n) [0xF6, n] (fun s => logicEffect (s.r.a ||| n) false s)

/-- `INC r8` and `DEC r8` (R157, R158): the operand written, Z, N, H from the adder, C kept. -/
def Obligations.IncAndDecEffect : Prop :=
  ∀ r : R8,
    HasEffect (.incR8 r) [0b00#2 ++ r.code ++ 0b100#3] (fun s =>
      { operandWrite r (operand s r + 1) (operandRead r s) with
        f := { sumFlags (operand s r).toNat 1 0 with c := s.f.c } }) ∧
    HasEffect (.decR8 r) [0b00#2 ++ r.code ++ 0b101#3] (fun s =>
      { operandWrite r (operand s r - 1) (operandRead r s) with
        f := { diffFlags (operand s r).toNat 1 0 with c := s.f.c } })

/-- `ADD HL,r16` (R170): Z kept. -/
def Obligations.AddHlEffect : Prop :=
  ∀ p : R16,
    HasEffect (.addHlR16 p) [0b00#2 ++ p.code ++ 0b1001#4] (fun s =>
      { pairWrite .hl (BitVec.ofNat 16 ((pairValue s .hl).toNat + (pairValue s p).toNat)) s with
        f :=
          { z := s.f.z, n := false
            h := decide ((pairValue s .hl).toNat % 0x1000 + (pairValue s p).toNat % 0x1000 > 0x0FFF)
            c := decide ((pairValue s .hl).toNat + (pairValue s p).toNat > 0xFFFF) }
        cycles := s.cycles + 1 })

/-- `ADD SP,e8` and `LD HL,SP+e8` (R172, R173, with R171), for every value of the two cycle parameters. -/
def Obligations.StackPointerPlusImmediateEffect : Prop :=
  ∀ n : Byte,
    HasEffect (.addSpE8 n) [0xE8, n] (fun s =>
      { s with sp := spResult s.sp n, f := spFlags s.sp n, cycles := s.cycles + s.params.icycAddSp }) ∧
    HasEffect (.ldHlSpE8 n) [0xF8, n] (fun s =>
      { pairWrite .hl (spResult s.sp n) s with f := spFlags s.sp n, cycles := s.cycles + s.params.icycLdHlSp })

/-- `LD r8,r8'` (R181), every form the instruction has: both fields `[HL]` "is not this instruction" (R217; its byte is in
`ClassAAndIRecordUnknownOpcode`). -/
def Obligations.LoadRegisterEffect : Prop :=
  ∀ dst src : R8, ¬ (dst = .mHL ∧ src = .mHL) →
    HasEffect (.ldR8R8 dst src) [0b01#2 ++ dst.code ++ src.code]
      (fun s => operandWrite dst (operand s src) (operandRead src s))

/-- `LD r8,imm8` (R182). -/
def Obligations.LoadImmediateByteEffect : Prop :=
  ∀ (r : R8) (n : Byte), HasEffect (.ldR8Imm8 r n) [0b00#2 ++ r.code ++ 0b110#3, n] (operandWrite r n)

/-- `LD [r16mem],A` and `LD A,[r16mem]` (R183, R184, with R24): the address is HL before the increment or decrement. -/
def Obligations.LoadThroughPairEffect : Prop :=
  ∀ p : R16Mem,
    HasEffect (.ldR16memA p) [0b00#2 ++ p.code ++ 0b0010#4] (fun s =>
      { memResolve p s with
        bus := s.bus.store (memAddress s p) s.r.a, cycles := s.cycles + 1
        events := s.events ++ unmappedEvent .write (memAddress s p) }) ∧
    HasEffect (.ldAR16mem p) [0b00#2 ++ p.code ++ 0b1010#4] (fun s =>
      { memResolve p s with
        r := { (memResolve p s).r with a := s.bus.byteAt (memAddress s p) }, cycles := s.cycles + 1
        events := s.events ++ unmappedEvent .read (memAddress s p) })

/-- `LDH [a8],A` and `LDH A,[a8]` (R185, R186): the address is `0xFF00 + n`. -/
def Obligations.LoadHighPageEffect : Prop :=
  ∀ n : Byte,
    highPage n = highAddress n ∧
    HasEffect (.ldhA8A n) [0xE0, n] (fun s =>
      { s with bus := s.bus.store (highAddress n) s.r.a, cycles := s.cycles + 1 }) ∧
    HasEffect (.ldhAA8 n) [0xF0, n] (fun s =>
      { s with r := { s.r with a := s.bus.byteAt (highAddress n) }, cycles := s.cycles + 1 })

/-- `LD r16,imm16` (R200): low byte first. -/
def Obligations.LoadImmediateWordEffect : Prop :=
  ∀ (p : R16) (l h : Byte),
    HasEffect (.ldR16Imm16 p (h ++ l)) [0b00#2 ++ p.code ++ 0b0001#4, l, h] (pairWrite p (h ++ l))

/-- `PUSH r16stk` (R201): high byte at `SP - 1`, low byte at `SP - 2`, SP two down, one internal cycle. -/
def Obligations.PushEffect : Prop :=
  ∀ p : R16Stk,
    HasEffect (.pushR16stk p) [0b11#2 ++ p.code ++ 0b0101#4] (fun s =>
      { s with
        sp := s.sp - 2
        bus := (s.bus.store (s.sp - 1) (hi (stackValue s p))).store (s.sp - 2) (lo (stackValue s p))
        cycles := s.cycles + 3
        events := s.events ++ unmappedEvent .write (s.sp - 1) ++ unmappedEvent .write (s.sp - 2) })

/-- `POP r16stk` (R202): low byte from SP, high byte from `SP + 1`, SP two up; into AF by R17. -/
def Obligations.PopEffect : Prop :=
  ∀ p : R16Stk,
    HasEffect (.popR16stk p) [0b11#2 ++ p.code ++ 0b0001#4] (fun s =>
      stackWrite p (s.bus.byteAt (s.sp + 1) ++ s.bus.byteAt s.sp)
        { s with
          sp := s.sp + 2, cycles := s.cycles + 2
          events := s.events ++ unmappedEvent .read s.sp ++ unmappedEvent .read (s.sp + 1) })

/-- Class A and class I (R210, R230, R270): every opcode of the two completes by recording `UnknownOpcode(op, addr)`, `addr`
the address the opcode was fetched from, and changes nothing else but PC and `cycles` by the fetch. -/
def Obligations.ClassAAndIRecordUnknownOpcode : Prop :=
  ∀ p ∈ absentOpcodes ++ noInstructionOpcodes,
    HasEffect p.1 [p.2] (fun s => { s with events := s.events ++ [.unknownOpcode p.2 (s.pc - 1)] })

/-- Class U (R240): every opcode of it is refused, in every state. -/
def Obligations.ClassUIsRefused : Prop :=
  ∀ p ∈ unnamedOpcodes, ∀ s : State,
    exec p.1 s = .refused (.notSpecified p.2) ∧
    (s.bus.byteAt s.pc = p.2 → step s = .refused (.notSpecified p.2))

/-- `PUSH rr` followed by `POP rr'` copies `rr` to `rr'`, the low nibble of F cleared, and restores SP, where both addresses
are mapped (R203). -/
def Obligations.PushThenPopCopiesThePair : Prop :=
  ∀ (p p' : R16Stk) (s t : State), s.Inv → s.bus.map (s.sp - 1) ≠ none → s.bus.map (s.sp - 2) ≠ none →
    exec (.pushR16stk p) s = .next t →
      ∃ u, exec (.popR16stk p') t = .next u ∧ u.sp = s.sp ∧
        stackValue u p' = if p' = .af then stackValue s p &&& 0xFFF0 else stackValue s p

/-! ## Registers, flags and the interface to the host -/

/-- AF read (R16, R18): `AF = (A << 8) | (F.Z << 7) | (F.N << 6) | (F.H << 5) | (F.C << 4)`. -/
def Obligations.AfReadPacksTheFlags : Prop :=
  ∀ s : State,
    s.af.toNat =
      s.r.a.toNat * 256 + s.f.z.toNat * 128 + s.f.n.toNat * 64 + s.f.h.toNat * 32 + s.f.c.toNat * 16

/-- AF write (R17): A and the four flags, `v[3:0]` ignored, nothing else; then AF reads `v & 0xFFF0`. -/
def Obligations.AfWriteUnpacksTheFlags : Prop :=
  ∀ (s : State) (v : Word),
    s.setAf v = { s with
      r := { s.r with a := hi v }
      f := { z := v.getLsbD 7, n := v.getLsbD 6, h := v.getLsbD 5, c := v.getLsbD 4 } } ∧
    (s.setAf v).af = v &&& 0xFFF0

/-- The indexed write and read of an 8-bit operand (R21): a register holds what was written and nothing else changes; index 6
is `MemWrite(HL, 1, v)`, writes no register, charges one cycle, and reads back through the byte at HL if that is mapped. -/
def Obligations.IndexedWriteReadsBack : Prop :=
  ∀ (s : State) (i : R8) (v : Byte), s.Inv →
    (i ≠ .mHL → s.r8Write i v = { s with r := (s.r8Write i v).r } ∧ ((s.r8Write i v).r8Read i).1 = v ∧
      ∀ j, j ≠ i → j ≠ .mHL → operand (s.r8Write i v) j = operand s j) ∧
    (i = .mHL → s.r8Write i v = s.busWrite (s.r.h ++ s.r.l) v ∧ (s.r8Write i v).r = s.r ∧
      (s.r8Write i v).cycles = s.cycles + 1 ∧
      (s.bus.map (s.r.h ++ s.r.l) ≠ none → ((s.r8Write i v).r8Read i).1 = v))

/-- The snapshot interface (R288), as whole states. A setter stores its value masked (R19: `v & 0xFF`, `v & 0xFFFF`, into AF
`v & 0xFFF0`) in the register, view or flag it names and changes nothing else; a getter reads that register, view or flag and
changes nothing. Index 6 of the 8-bit accessor is the one with a side effect: a bus access at HL. -/
def Obligations.SnapshotSettersMask : Prop :=
  (∀ (s : State) (i : R8) (v : Nat),
    applyMove (.setReg8 i v) s = .next (operandWrite i (BitVec.ofNat 8 v) s) ∧
    (i ≠ .mHL → (operand (operandWrite i (BitVec.ofNat 8 v) s) i).toNat = v % 256)) ∧
  (∀ (s : State) (p : Pair) (v : Nat),
    applyMove (.setPair p v) s = .next (viewWrite p (BitVec.ofNat 16 v) s) ∧
    ((viewWrite p (BitVec.ofNat 16 v) s).getPair p).toNat = if p = .af then v % 65536 / 16 * 16 else v % 65536) ∧
  (∀ (s : State) (g : FlagName) (v : Bool),
    applyMove (.setFlag g v) s = .next (flagWrite g v s) ∧ (flagWrite g v s).getFlag g = v ∧
    ∀ g', g' ≠ g → (flagWrite g v s).getFlag g' = s.getFlag g') ∧
  (∀ (s : State) (i : R8),
    applyMove (.getReg8 i) s = .next (operandRead i s) ∧ (s.r8Read i).1 = operand s i ∧
    (i ≠ .mHL → applyMove (.getReg8 i) s = .next s)) ∧
  (∀ (s : State) (p : Pair), applyMove (.getPair p) s = .next s ∧ s.getPair p = viewValue s p) ∧
  (∀ (s : State) (g : FlagName), applyMove (.getFlag g) s = .next s ∧ s.getFlag g = flagValue s g)

/-- Construction (R301, R272; the banks by R56): an image outside 32768 to 8388608 bytes fails with its size; any other gives a
state with the image in `rom`, the given RAM contents, registers, SP and PC, the given banks mapped, and no condition recorded.
Two things in it are the model's choice and no rule's: that a size inside the bounds which is no multiple of 16384 is accepted
(log 12), and that the open parameters are a record in the state (log 6). -/
def Obligations.ConstructionFollowsItsRule : Prop :=
  ∀ (image : List Byte) (u : Setup),
    (image.length < 32768 ∨ image.length > 8388608 →
      construct image u = .fault (.romSizeOutOfRange image.length)) ∧
    (32768 ≤ image.length → image.length ≤ 8388608 → ∃ s, construct image u = .next s ∧
      (∀ k, k < image.length → Memory.read k s.bus.rom = image.getD k 0) ∧
      s.bus.vram = u.vram ∧ s.bus.eram = u.eram ∧ s.bus.wram = u.wram ∧ s.bus.oam = u.oam ∧ s.bus.io = u.io ∧
      s.bus.hram = u.hram ∧ s.bus.romBank = u.romxBank ∧ s.bus.wramBank = u.wramxBank ∧
      s.r = u.r ∧ s.f = u.f ∧ s.sp = u.sp ∧ s.pc = u.pc ∧ s.events = [] ∧
      s.params = { romSize := image.length, wramBanks := u.wramBanks, icycAddSp := u.icycAddSp, icycLdHlSp := u.icycLdHlSp })

/-- A construction whose parameters are legal (R7, D11, D13) and whose RAM contents fit their arrays meets the invariant. -/
def Obligations.ConstructionMeetsTheInvariant : Prop :=
  ∀ (image : List Byte) (u : Setup) (s : State), construct image u = .next s → image.length % 16384 = 0 →
    2 ≤ u.wramBanks → u.romxBank < image.length / 16384 → u.wramxBank < u.wramBanks →
    Memory.wf 8192 u.vram = true → Memory.wf 8192 u.eram = true → Memory.wf (u.wramBanks * 4096) u.wram = true →
    Memory.wf 160 u.oam = true → Memory.wf 128 u.io = true → Memory.wf 128 u.hram = true → s.Inv
end

