-- ==== Sys2Proof/Laws/Decode.lean ====
section
/-! SUPPORT. The opcode table is total, and the fields are read back as they are written. -/

namespace Sys2Proof

@[simp] theorem R8.ofCode_code (r : R8) : R8.ofCode r.code = r := by cases r <;> rfl
@[simp] theorem R16.ofCode_code (p : R16) : R16.ofCode p.code = p := by cases p <;> rfl
@[simp] theorem R16Stk.ofCode_code (p : R16Stk) : R16Stk.ofCode p.code = p := by cases p <;> rfl
@[simp] theorem R16Mem.ofCode_code (p : R16Mem) : R16Mem.ofCode p.code = p := by cases p <;> rfl
@[simp] theorem Cond.ofCode_code (k : Cond) : Cond.ofCode k.code = k := by cases k <;> rfl

/-- Every opcode value has a row (R96, R105). -/
theorem rowOf_isSome : ∀ op : Byte, (rowOf op).isSome = true := by decide

/-- Every opcode value has a row (R96, R105). -/
theorem exists_rowOf (op : Byte) : ∃ row, rowOf op = some row := Option.isSome_iff_exists.mp (rowOf_isSome op)

/-- A row's length is 1, 2 or 3 (R90). -/
theorem rowOf_length (op : Byte) (row : OpcodeRow) (h : rowOf op = some row) :
    row.length = 1 ∨ row.length = 2 ∨ row.length = 3 := by
  have hm : row ∈ opcodeTable := List.mem_of_find?_eq_some h
  have : ∀ r ∈ opcodeTable, r.length = 1 ∨ r.length = 2 ∨ r.length = 3 := by
    simp [opcodeTable, opcodeRowsBlock0, opcodeRowsBlocks12, opcodeRowsBlock3a, opcodeRowsBlock3b,
      opcodeRowsNoInstruction]
  exact this row hm

/-- A property that every row of the table has, at one opcode, holds of the row that the opcode finds. -/
theorem rowOf_of_forall {op : Byte} {row : OpcodeRow} {q : OpcodeRow → Prop} (h : rowOf op = some row)
    (hq : ∀ r ∈ opcodeTable, q r) : q row :=
  hq row (List.mem_of_find?_eq_some h)

/-- What a row builds has the row's length (R90). -/
theorem rowOf_build_length {op : Byte} {row : OpcodeRow} (h : rowOf op = some row) (b2 b3 : Byte) :
    (row.build op b2 b3).length = row.length := by
  apply rowOf_of_forall h (q := fun r => (r.build op b2 b3).length = r.length)
  simp [opcodeTable, opcodeRowsBlock0, opcodeRowsBlocks12, opcodeRowsBlock3a, opcodeRowsBlock3b, opcodeRowsNoInstruction,
    Instr.length, immediates]

/-- What a row builds has the row's class (R96). -/
theorem rowOf_build_opClass {op : Byte} {row : OpcodeRow} (h : rowOf op = some row) (b2 b3 : Byte) :
    (row.build op b2 b3).opClass = row.cls := by
  apply rowOf_of_forall h (q := fun r => (r.build op b2 b3).opClass = r.cls)
  simp [opcodeTable, opcodeRowsBlock0, opcodeRowsBlocks12, opcodeRowsBlock3a, opcodeRowsBlock3b, opcodeRowsNoInstruction,
    Instr.opClass]

/-- An opcode byte is the opcode of what its row builds, and what it builds is well-formed (R96, R100). -/
theorem rowOf_build_opcode : ∀ op : Byte,
    ((rowOf op).all fun row => opcode (row.build op 0 0) == op && (row.build op 0 0).wellFormed) = true := by decide

/-- Decoding three bytes or more: the row's length alone decides how many of them are taken (R90). -/
theorem decode_of_rowOf {op : Byte} {row : OpcodeRow} (h : rowOf op = some row) (b2 b3 : Byte) (rest : List Byte) :
    decode (op :: b2 :: b3 :: rest) =
      .ok (match row.length with
        | 2 => row.build op b2 0
        | 3 => row.build op b2 b3
        | _ => row.build op 0 0, (op :: b2 :: b3 :: rest).drop row.length) := by
  rcases rowOf_length _ _ h with hl | hl | hl <;> simp [decode, h, hl]

end Sys2Proof
end

