-- ==== Sys2Proof/Laws/Memory.lean ====
section
/-! SUPPORT. The laws of an array's contents: reading after writing, the canonical form kept, equal contents are equal data. -/

namespace Sys2Proof.Machine

@[simp] theorem Memory.read_nil (k : Nat) : Memory.read k [] = Memory.unlisted := rfl

theorem Memory.wfFrom_cons {lo size k : Nat} {v : Byte} {m : Memory} :
    Memory.wfFrom lo size ((k, v) :: m) = true ↔
      lo ≤ k ∧ k < size ∧ v ≠ Memory.unlisted ∧ Memory.wfFrom (k + 1) size m = true := by
  simp [Memory.wfFrom, and_assoc]

/-- A lower bound may be lowered. -/
theorem Memory.wfFrom_mono {lo lo' size : Nat} {m : Memory} (h : lo' ≤ lo) (hm : Memory.wfFrom lo size m = true) :
    Memory.wfFrom lo' size m = true := by
  cases m with
  | nil => rfl
  | cons c m =>
    obtain ⟨k, v⟩ := c
    rw [Memory.wfFrom_cons] at hm ⊢
    exact ⟨h.trans hm.1, hm.2⟩

/-- Below the lower bound nothing is listed. -/
theorem Memory.read_of_lt {lo size k : Nat} {m : Memory} (hm : Memory.wfFrom lo size m = true) (h : k < lo) :
    Memory.read k m = Memory.unlisted := by
  induction m generalizing lo with
  | nil => rfl
  | cons c m ih =>
    obtain ⟨j, v⟩ := c
    rw [Memory.wfFrom_cons] at hm
    rw [Memory.read, if_neg (by omega)]
    exact ih hm.2.2.2 (by omega)

/-- From `size` on nothing is listed. -/
theorem Memory.read_of_ge {lo size k : Nat} {m : Memory} (hm : Memory.wfFrom lo size m = true) (h : size ≤ k) :
    Memory.read k m = Memory.unlisted := by
  induction m generalizing lo with
  | nil => rfl
  | cons c m ih =>
    obtain ⟨j, v⟩ := c
    rw [Memory.wfFrom_cons] at hm
    rw [Memory.read, if_neg (by omega)]
    exact ih hm.2.2.2

/-- Reading after writing, for an array in canonical form. -/
theorem Memory.read_write {lo size : Nat} {m : Memory} (hm : Memory.wfFrom lo size m = true) (k j : Nat) (v : Byte) :
    Memory.read j (Memory.write k v m) = if k = j then v else Memory.read j m := by
  induction m generalizing lo with
  | nil =>
    simp only [Memory.write]
    split
    · next h => split <;> simp [h]
    · simp [Memory.read]
  | cons c m ih =>
    obtain ⟨i, w⟩ := c
    rw [Memory.wfFrom_cons] at hm
    obtain ⟨-, -, -, hm⟩ := hm
    simp only [Memory.write]
    by_cases hki : k < i
    · simp only [hki, if_true]
      split
      · next hv =>
        split
        · next hkj =>
          subst hkj
          rw [hv, Memory.read, if_neg (by omega)]
          exact Memory.read_of_lt hm (by omega)
        · rfl
      · simp [Memory.read]
    · simp only [hki, if_false]
      by_cases hke : k = i
      · subst hke
        simp only [if_true]
        split
        · next hv =>
          split
          · next hkj => subst hkj; rw [hv]; exact Memory.read_of_lt hm (by omega)
          · next hkj => simp [Memory.read, hkj]
        · by_cases hkj : k = j <;> simp [Memory.read, hkj]
      · simp only [hke, if_false, Memory.read]
        by_cases hij : i = j
        · have hkj : k ≠ j := by omega
          simp [hij, hkj]
        · simp only [hij, if_false]
          exact ih hm

/-- A write inside the array keeps the canonical form. -/
theorem Memory.wfFrom_write {lo size k : Nat} {m : Memory} (hm : Memory.wfFrom lo size m = true) (hlo : lo ≤ k)
    (hk : k < size) (v : Byte) : Memory.wfFrom lo size (Memory.write k v m) = true := by
  induction m generalizing lo with
  | nil =>
    simp only [Memory.write]
    split
    · rfl
    · next h => exact Memory.wfFrom_cons.mpr ⟨hlo, hk, h, rfl⟩
  | cons c m ih =>
    obtain ⟨i, w⟩ := c
    have hm' := hm
    rw [Memory.wfFrom_cons] at hm
    obtain ⟨h1, h2, h3, h4⟩ := hm
    simp only [Memory.write]
    by_cases hki : k < i
    · simp only [hki, if_true]
      split
      · exact hm'
      · next hv =>
        exact Memory.wfFrom_cons.mpr ⟨hlo, hk, hv, Memory.wfFrom_cons.mpr ⟨by omega, h2, h3, h4⟩⟩
    · simp only [hki, if_false]
      by_cases hke : k = i
      · simp only [hke, if_true]
        split
        · exact Memory.wfFrom_mono (by omega) h4
        · next hv => exact Memory.wfFrom_cons.mpr ⟨h1, h2, hv, h4⟩
      · simp only [hke, if_false]
        exact Memory.wfFrom_cons.mpr ⟨h1, h2, h3, ih h4 (by omega)⟩

/-- A write inside the array keeps the canonical form. -/
theorem Memory.wf_write {size k : Nat} {m : Memory} (hm : Memory.wf size m = true) (hk : k < size) (v : Byte) :
    Memory.wf size (Memory.write k v m) = true :=
  Memory.wfFrom_write hm (Nat.zero_le k) hk v

/-- The contents made from a list of bytes are in canonical form. -/
theorem Memory.wfFrom_ofBytesFrom (vs : List Byte) (k : Nat) :
    Memory.wfFrom k (k + vs.length) (Memory.ofBytesFrom k vs) = true := by
  induction vs generalizing k with
  | nil => rfl
  | cons v vs ih =>
    have h := ih (k + 1)
    rw [show k + 1 + vs.length = k + (v :: vs).length by simp; omega] at h
    simp only [Memory.ofBytesFrom]
    split
    · exact Memory.wfFrom_mono (by omega) h
    · next hv => exact Memory.wfFrom_cons.mpr ⟨le_rfl, by simp, hv, h⟩

theorem Memory.wf_ofBytes (vs : List Byte) : Memory.wf vs.length (Memory.ofBytes vs) = true := by
  have h := Memory.wfFrom_ofBytesFrom vs 0
  rwa [Nat.zero_add] at h

/-- A list of unlisted bytes lists nothing. -/
theorem Memory.ofBytesFrom_replicate (n k : Nat) :
    Memory.ofBytesFrom k (List.replicate n Memory.unlisted) = [] := by
  induction n generalizing k with
  | zero => rfl
  | succ n ih => simp [List.replicate_succ, Memory.ofBytesFrom, ih]

end Sys2Proof.Machine
end

