-- ==== Sys2Proof/Laws/State.lean ====
section
/-! SUPPORT. One lemma per field per update of State, true by rfl, so that no later proof unfolds a record update; the same for
the register pairs of Regs and the arrays of Bus. -/

namespace Sys2Proof.Machine

/-! ### State.setA -/

@[simp] theorem State.setA_r (s : State) (v : Byte) : (s.setA v).r = { s.r with a := v } := rfl
@[simp] theorem State.setA_f (s : State) (v : Byte) : (s.setA v).f = s.f := rfl
@[simp] theorem State.setA_sp (s : State) (v : Byte) : (s.setA v).sp = s.sp := rfl
@[simp] theorem State.setA_pc (s : State) (v : Byte) : (s.setA v).pc = s.pc := rfl
@[simp] theorem State.setA_cycles (s : State) (v : Byte) : (s.setA v).cycles = s.cycles := rfl
@[simp] theorem State.setA_bus (s : State) (v : Byte) : (s.setA v).bus = s.bus := rfl
@[simp] theorem State.setA_events (s : State) (v : Byte) : (s.setA v).events = s.events := rfl
@[simp] theorem State.setA_params (s : State) (v : Byte) : (s.setA v).params = s.params := rfl

/-! ### State.setFlags -/

@[simp] theorem State.setFlags_r (s : State) (v : Flags) : (s.setFlags v).r = s.r := rfl
@[simp] theorem State.setFlags_f (s : State) (v : Flags) : (s.setFlags v).f = v := rfl
@[simp] theorem State.setFlags_sp (s : State) (v : Flags) : (s.setFlags v).sp = s.sp := rfl
@[simp] theorem State.setFlags_pc (s : State) (v : Flags) : (s.setFlags v).pc = s.pc := rfl
@[simp] theorem State.setFlags_cycles (s : State) (v : Flags) : (s.setFlags v).cycles = s.cycles := rfl
@[simp] theorem State.setFlags_bus (s : State) (v : Flags) : (s.setFlags v).bus = s.bus := rfl
@[simp] theorem State.setFlags_events (s : State) (v : Flags) : (s.setFlags v).events = s.events := rfl
@[simp] theorem State.setFlags_params (s : State) (v : Flags) : (s.setFlags v).params = s.params := rfl

/-! ### State.setSp -/

@[simp] theorem State.setSp_r (s : State) (v : Word) : (s.setSp v).r = s.r := rfl
@[simp] theorem State.setSp_f (s : State) (v : Word) : (s.setSp v).f = s.f := rfl
@[simp] theorem State.setSp_sp (s : State) (v : Word) : (s.setSp v).sp = v := rfl
@[simp] theorem State.setSp_pc (s : State) (v : Word) : (s.setSp v).pc = s.pc := rfl
@[simp] theorem State.setSp_cycles (s : State) (v : Word) : (s.setSp v).cycles = s.cycles := rfl
@[simp] theorem State.setSp_bus (s : State) (v : Word) : (s.setSp v).bus = s.bus := rfl
@[simp] theorem State.setSp_events (s : State) (v : Word) : (s.setSp v).events = s.events := rfl
@[simp] theorem State.setSp_params (s : State) (v : Word) : (s.setSp v).params = s.params := rfl

/-! ### State.setPc -/

@[simp] theorem State.setPc_r (s : State) (v : Word) : (s.setPc v).r = s.r := rfl
@[simp] theorem State.setPc_f (s : State) (v : Word) : (s.setPc v).f = s.f := rfl
@[simp] theorem State.setPc_sp (s : State) (v : Word) : (s.setPc v).sp = s.sp := rfl
@[simp] theorem State.setPc_pc (s : State) (v : Word) : (s.setPc v).pc = v := rfl
@[simp] theorem State.setPc_cycles (s : State) (v : Word) : (s.setPc v).cycles = s.cycles := rfl
@[simp] theorem State.setPc_bus (s : State) (v : Word) : (s.setPc v).bus = s.bus := rfl
@[simp] theorem State.setPc_events (s : State) (v : Word) : (s.setPc v).events = s.events := rfl
@[simp] theorem State.setPc_params (s : State) (v : Word) : (s.setPc v).params = s.params := rfl

/-! ### State.setCycles -/

@[simp] theorem State.setCycles_r (s : State) (v : Nat) : (s.setCycles v).r = s.r := rfl
@[simp] theorem State.setCycles_f (s : State) (v : Nat) : (s.setCycles v).f = s.f := rfl
@[simp] theorem State.setCycles_sp (s : State) (v : Nat) : (s.setCycles v).sp = s.sp := rfl
@[simp] theorem State.setCycles_pc (s : State) (v : Nat) : (s.setCycles v).pc = s.pc := rfl
@[simp] theorem State.setCycles_cycles (s : State) (v : Nat) : (s.setCycles v).cycles = v := rfl
@[simp] theorem State.setCycles_bus (s : State) (v : Nat) : (s.setCycles v).bus = s.bus := rfl
@[simp] theorem State.setCycles_events (s : State) (v : Nat) : (s.setCycles v).events = s.events := rfl
@[simp] theorem State.setCycles_params (s : State) (v : Nat) : (s.setCycles v).params = s.params := rfl

/-! ### State.setBus -/

@[simp] theorem State.setBus_r (s : State) (v : Bus) : (s.setBus v).r = s.r := rfl
@[simp] theorem State.setBus_f (s : State) (v : Bus) : (s.setBus v).f = s.f := rfl
@[simp] theorem State.setBus_sp (s : State) (v : Bus) : (s.setBus v).sp = s.sp := rfl
@[simp] theorem State.setBus_pc (s : State) (v : Bus) : (s.setBus v).pc = s.pc := rfl
@[simp] theorem State.setBus_cycles (s : State) (v : Bus) : (s.setBus v).cycles = s.cycles := rfl
@[simp] theorem State.setBus_bus (s : State) (v : Bus) : (s.setBus v).bus = v := rfl
@[simp] theorem State.setBus_events (s : State) (v : Bus) : (s.setBus v).events = s.events := rfl
@[simp] theorem State.setBus_params (s : State) (v : Bus) : (s.setBus v).params = s.params := rfl

/-! ### State.setRegs -/

@[simp] theorem State.setRegs_r (s : State) (v : Regs) : (s.setRegs v).r = v := rfl
@[simp] theorem State.setRegs_f (s : State) (v : Regs) : (s.setRegs v).f = s.f := rfl
@[simp] theorem State.setRegs_sp (s : State) (v : Regs) : (s.setRegs v).sp = s.sp := rfl
@[simp] theorem State.setRegs_pc (s : State) (v : Regs) : (s.setRegs v).pc = s.pc := rfl
@[simp] theorem State.setRegs_cycles (s : State) (v : Regs) : (s.setRegs v).cycles = s.cycles := rfl
@[simp] theorem State.setRegs_bus (s : State) (v : Regs) : (s.setRegs v).bus = s.bus := rfl
@[simp] theorem State.setRegs_events (s : State) (v : Regs) : (s.setRegs v).events = s.events := rfl
@[simp] theorem State.setRegs_params (s : State) (v : Regs) : (s.setRegs v).params = s.params := rfl

/-! ### State.internal -/

@[simp] theorem State.internal_r (s : State) (v : Nat) : (s.internal v).r = s.r := rfl
@[simp] theorem State.internal_f (s : State) (v : Nat) : (s.internal v).f = s.f := rfl
@[simp] theorem State.internal_sp (s : State) (v : Nat) : (s.internal v).sp = s.sp := rfl
@[simp] theorem State.internal_pc (s : State) (v : Nat) : (s.internal v).pc = s.pc := rfl
@[simp] theorem State.internal_cycles (s : State) (v : Nat) : (s.internal v).cycles = s.cycles + v := rfl
@[simp] theorem State.internal_bus (s : State) (v : Nat) : (s.internal v).bus = s.bus := rfl
@[simp] theorem State.internal_events (s : State) (v : Nat) : (s.internal v).events = s.events := rfl
@[simp] theorem State.internal_params (s : State) (v : Nat) : (s.internal v).params = s.params := rfl

/-! ### State.emit -/

@[simp] theorem State.emit_r (s : State) (v : Event) : (s.emit v).r = s.r := rfl
@[simp] theorem State.emit_f (s : State) (v : Event) : (s.emit v).f = s.f := rfl
@[simp] theorem State.emit_sp (s : State) (v : Event) : (s.emit v).sp = s.sp := rfl
@[simp] theorem State.emit_pc (s : State) (v : Event) : (s.emit v).pc = s.pc := rfl
@[simp] theorem State.emit_cycles (s : State) (v : Event) : (s.emit v).cycles = s.cycles := rfl
@[simp] theorem State.emit_bus (s : State) (v : Event) : (s.emit v).bus = s.bus := rfl
@[simp] theorem State.emit_events (s : State) (v : Event) : (s.emit v).events = s.events ++ [v] := rfl
@[simp] theorem State.emit_params (s : State) (v : Event) : (s.emit v).params = s.params := rfl

/-! ### State.raiseUnknownOpcode -/

@[simp] theorem State.raiseUnknownOpcode_r (s : State) (v : Byte) : (s.raiseUnknownOpcode v).r = s.r := rfl
@[simp] theorem State.raiseUnknownOpcode_f (s : State) (v : Byte) : (s.raiseUnknownOpcode v).f = s.f := rfl
@[simp] theorem State.raiseUnknownOpcode_sp (s : State) (v : Byte) : (s.raiseUnknownOpcode v).sp = s.sp := rfl
@[simp] theorem State.raiseUnknownOpcode_pc (s : State) (v : Byte) : (s.raiseUnknownOpcode v).pc = s.pc := rfl
@[simp] theorem State.raiseUnknownOpcode_cycles (s : State) (v : Byte) : (s.raiseUnknownOpcode v).cycles = s.cycles := rfl
@[simp] theorem State.raiseUnknownOpcode_bus (s : State) (v : Byte) : (s.raiseUnknownOpcode v).bus = s.bus := rfl
@[simp] theorem State.raiseUnknownOpcode_events (s : State) (v : Byte) : (s.raiseUnknownOpcode v).events = s.events ++ [.unknownOpcode v (s.pc - 1)] := rfl
@[simp] theorem State.raiseUnknownOpcode_params (s : State) (v : Byte) : (s.raiseUnknownOpcode v).params = s.params := rfl

/-! ### Two updates of one field -/

@[simp] theorem State.setCycles_setCycles (s : State) (m n : Nat) : (s.setCycles m).setCycles n = s.setCycles n := rfl
@[simp] theorem State.setFlags_setFlags (s : State) (m n : Flags) : (s.setFlags m).setFlags n = s.setFlags n := rfl
@[simp] theorem State.setSp_setSp (s : State) (m n : Word) : (s.setSp m).setSp n = s.setSp n := rfl
@[simp] theorem State.setPc_setPc (s : State) (m n : Word) : (s.setPc m).setPc n = s.setPc n := rfl
@[simp] theorem State.setBus_setBus (s : State) (m n : Bus) : (s.setBus m).setBus n = s.setBus n := rfl
@[simp] theorem State.setRegs_setRegs (s : State) (m n : Regs) : (s.setRegs m).setRegs n = s.setRegs n := rfl

/-! ### Words and their bytes -/

theorem wordOf_toNat (hi lo : Byte) : (wordOf hi lo).toNat = hi.toNat * 256 + lo.toNat := by
  rw [wordOf, BitVec.toNat_append, Nat.shiftLeft_eq, Nat.mul_comm, ← Nat.two_pow_add_eq_or_of_lt (i := 8) lo.isLt hi.toNat]

theorem hiByte_toNat (v : Word) : (hiByte v).toNat = v.toNat / 256 := by
  simp only [hiByte, BitVec.extractLsb'_toNat, Nat.shiftRight_eq_div_pow]
  have := v.isLt
  omega

theorem loByte_toNat (v : Word) : (loByte v).toNat = v.toNat % 256 := by
  simp [loByte, BitVec.extractLsb'_toNat]

@[simp] theorem hiByte_wordOf (hi lo : Byte) : hiByte (wordOf hi lo) = hi := by
  apply BitVec.eq_of_toNat_eq
  have := lo.isLt
  rw [hiByte_toNat, wordOf_toNat]; omega

@[simp] theorem loByte_wordOf (hi lo : Byte) : loByte (wordOf hi lo) = lo := by
  apply BitVec.eq_of_toNat_eq
  have := lo.isLt
  rw [loByte_toNat, wordOf_toNat]; omega

@[simp] theorem wordOf_hiByte_loByte (v : Word) : wordOf (hiByte v) (loByte v) = v := by
  apply BitVec.eq_of_toNat_eq
  rw [wordOf_toNat, hiByte_toNat, loByte_toNat]; omega

/-! ### Register pairs -/

@[simp] theorem Regs.bc_setBc (r : Regs) (v : Word) : (r.setBc v).bc = v := wordOf_hiByte_loByte v
@[simp] theorem Regs.de_setDe (r : Regs) (v : Word) : (r.setDe v).de = v := wordOf_hiByte_loByte v
@[simp] theorem Regs.hl_setHl (r : Regs) (v : Word) : (r.setHl v).hl = v := wordOf_hiByte_loByte v
@[simp] theorem Regs.hl_setBc (r : Regs) (v : Word) : (r.setBc v).hl = r.hl := rfl
@[simp] theorem Regs.hl_setDe (r : Regs) (v : Word) : (r.setDe v).hl = r.hl := rfl
@[simp] theorem Regs.bc_setDe (r : Regs) (v : Word) : (r.setDe v).bc = r.bc := rfl
@[simp] theorem Regs.bc_setHl (r : Regs) (v : Word) : (r.setHl v).bc = r.bc := rfl
@[simp] theorem Regs.de_setBc (r : Regs) (v : Word) : (r.setBc v).de = r.de := rfl
@[simp] theorem Regs.de_setHl (r : Regs) (v : Word) : (r.setHl v).de = r.de := rfl
@[simp] theorem Regs.a_setBc (r : Regs) (v : Word) : (r.setBc v).a = r.a := rfl
@[simp] theorem Regs.a_setDe (r : Regs) (v : Word) : (r.setDe v).a = r.a := rfl
@[simp] theorem Regs.a_setHl (r : Regs) (v : Word) : (r.setHl v).a = r.a := rfl

/-! ### Arrays of the bus -/

@[simp] theorem Bus.romBank_setArray (b : Bus) (x : ArrayId) (m : Memory) : (b.setArray x m).romBank = b.romBank := by
  cases x <;> rfl
@[simp] theorem Bus.wramBank_setArray (b : Bus) (x : ArrayId) (m : Memory) : (b.setArray x m).wramBank = b.wramBank := by
  cases x <;> rfl
theorem Bus.array_setArray (b : Bus) (x y : ArrayId) (m : Memory) :
    (b.setArray x m).array y = if x = y then m else b.array y := by
  cases x <;> cases y <;> rfl

end Sys2Proof.Machine
end

