-- ==== Sys2Proof/Laws/Map.lean ====
section
/-! SUPPORT. The map and the stores through it: what a store changes, and that every array keeps its canonical form. -/

namespace Sys2Proof.Machine

/-- The map depends on the two bank indices alone (R32). -/
theorem Bus.map_congr {b b' : Bus} (h1 : b.romBank = b'.romBank) (h2 : b.wramBank = b'.wramBank) (a : Word) :
    b.map a = b'.map a := by
  have : ∀ g, b.bankOf g = b'.bankOf g := by intro g; cases g <;> simp [Bus.bankOf, h1, h2]
  simp [Bus.map, this]

@[simp] theorem Bus.romBank_store (b : Bus) (a : Word) (v : Byte) : (b.store a v).romBank = b.romBank := by
  unfold Bus.store; split <;> simp

@[simp] theorem Bus.wramBank_store (b : Bus) (a : Word) (v : Byte) : (b.store a v).wramBank = b.wramBank := by
  unfold Bus.store; split <;> simp

/-- A store changes no slot of the map (R55). -/
@[simp] theorem Bus.map_store (b : Bus) (a a' : Word) (v : Byte) : (b.store a v).map a' = b.map a' :=
  Bus.map_congr (by simp) (by simp) a'

theorem Bus.array_wf {p : Params} {b : Bus} (h : b.arraysWf p = true) (arr : ArrayId) :
    Memory.wf (ArrayId.size p arr) (b.array arr) = true := by
  simp only [Bus.arraysWf, Bool.and_eq_true] at h
  cases arr <;> simp [Bus.array, h]

theorem Bus.arraysWf_of_array {p : Params} {b : Bus}
    (h : ∀ arr, Memory.wf (ArrayId.size p arr) (b.array arr) = true) : b.arraysWf p = true := by
  simp only [Bus.arraysWf, Bool.and_eq_true]
  exact ⟨⟨⟨⟨⟨⟨h .rom, h .vram⟩, h .eram⟩, h .wram⟩, h .oam⟩, h .io⟩, h .hram⟩

/-- What a store makes of every byte of every array, for arrays in canonical form (R61). -/
theorem Bus.array_store {p : Params} {b : Bus} (h : b.arraysWf p = true) (a : Word) (v : Byte) (arr : ArrayId)
    (off : Nat) :
    Memory.read off ((b.store a v).array arr) =
      if b.map a = some (arr, off) then v else Memory.read off (b.array arr) := by
  unfold Bus.store
  split
  · next hn => simp [hn]
  · next x k hx =>
    rw [Bus.array_setArray, hx]
    by_cases hxa : x = arr
    · subst hxa
      have hw := Bus.array_wf h x
      have := Memory.read_write hw k off v
      simp [this]
    · simp [hxa]

/-- What a store makes of the byte shown at every address (R54, R61). -/
theorem Bus.byteAt_store {p : Params} {b : Bus} (h : b.arraysWf p = true) (a a' : Word) (v : Byte) :
    (b.store a v).byteAt a' = if b.map a = b.map a' ∧ b.map a ≠ none then v else b.byteAt a' := by
  simp only [Bus.byteAt, Bus.map_store]
  cases ha' : b.map a' with
  | none =>
    have : ¬ (b.map a = none ∧ b.map a ≠ none) := by tauto
    simp [Bus.byteOfSlot, this]
  | some x =>
    obtain ⟨arr, off⟩ := x
    simp only [Bus.byteOfSlot, Bus.array_store h]
    by_cases hx : b.map a = some (arr, off) <;> simp [hx]

/-- The regions partition the address space as R51's table says. -/
theorem regionOf_bounds (a : Word) :
    (regionOf a).first ≤ a.toNat ∧ a.toNat < (regionOf a).first + (regionOf a).size := by
  have := a.isLt
  simp only [regionOf]
  repeat' split
  all_goals simp only [Region.first, Region.size]; omega

/-- An address between a region's bounds lies in that region (R51). -/
theorem regionOf_eq (a : Word) (g : Region) (h1 : g.first ≤ a.toNat) (h2 : a.toNat < g.first + g.size) :
    regionOf a = g := by
  have h := regionOf_bounds a
  generalize regionOf a = g' at h
  cases g <;> cases g' <;> simp only [Region.first, Region.size] at h1 h2 h <;> first | rfl | omega

/-- The slot of an address whose region is known (R53, R55). -/
theorem Bus.map_eq (b : Bus) (a : Word) (g : Region) (h1 : g.first ≤ a.toNat) (h2 : a.toNat < g.first + g.size) :
    b.map a = g.slot (b.bankOf g) (a.toNat - g.first) := by
  simp [Bus.map, regionOf_eq a g h1 h2]

/-- Where the banks are legal, every slot lies inside its array (R51, R59). -/
theorem Bus.map_lt_size {s : State} (hi : s.Inv) {a : Word} {arr : ArrayId} {off : Nat}
    (h : s.bus.map a = some (arr, off)) : off < ArrayId.size s.params arr := by
  obtain ⟨⟨h1, -, h3, h4⟩, h5, h6, -⟩ := hi
  have hb := regionOf_bounds a
  simp only [Bus.map, Region.slot] at h
  generalize regionOf a = g at h hb
  simp only [romBanks] at h5
  cases g <;> simp only [Region.array, Option.some.injEq, Prod.mk.injEq, reduceCtorEq] at h <;>
    obtain ⟨rfl, rfl⟩ := h <;>
    simp only [Bus.bankOf, Region.stride, Region.first, Region.size, ArrayId.size] at hb ⊢ <;> omega

/-- A store keeps every array in canonical form. -/
theorem Bus.arraysWf_store {s : State} (hi : s.Inv) (a : Word) (v : Byte) :
    (s.bus.store a v).arraysWf s.params = true := by
  apply Bus.arraysWf_of_array
  intro arr
  have hw := Bus.array_wf hi.2.2.2
  unfold Bus.store
  split
  · exact hw arr
  · next x k hx =>
    rw [Bus.array_setArray]
    split
    · next h => subst h; exact Memory.wf_write (hw x) (Bus.map_lt_size hi hx) v
    · exact hw arr

end Sys2Proof.Machine
end

