-- ==== Sys2Proof/Laws/Ops.lean ====
section
/-! SUPPORT. One lemma per shared operation that says everything it does, as a value and a record update; later proofs cite
these and unfold none of the operations. -/

namespace Sys2Proof.Machine

/-- The condition an access records: one event if the slot is unmapped (R271), nothing otherwise. -/
def Bus.accessEvents (b : Bus) (k : AccessKind) (a : Word) : List Event :=
  if b.map a = none then [.unmappedAccess k a] else []

/-- The accesses of one address do not depend on array contents (R53). -/
theorem Bus.accessEvents_congr {b b' : Bus} (h1 : b.romBank = b'.romBank) (h2 : b.wramBank = b'.wramBank)
    (k : AccessKind) (a : Word) : b.accessEvents k a = b'.accessEvents k a := by
  simp [Bus.accessEvents, Bus.map_congr h1 h2]

@[simp] theorem Bus.accessEvents_store (b : Bus) (k : AccessKind) (a a' : Word) (v : Byte) :
    (b.store a v).accessEvents k a' = b.accessEvents k a' :=
  Bus.accessEvents_congr (by simp) (by simp) k a'

/-- `MemRead` (R60). -/
theorem State.busRead_eq (s : State) (a : Word) :
    s.busRead a =
      (s.bus.byteAt a, { s with cycles := s.cycles + 1, events := s.events ++ s.bus.accessEvents .read a }) := by
  unfold State.busRead
  split
  · next h => simp [Bus.byteAt, Bus.accessEvents, h, Bus.byteOfSlot, State.emit, State.setCycles]
  · next h => simp [Bus.accessEvents, h, State.setCycles]

/-- `MemWrite` (R61). -/
theorem State.busWrite_eq (s : State) (a : Word) (v : Byte) :
    s.busWrite a v =
      { s with bus := s.bus.store a v, cycles := s.cycles + 1,
               events := s.events ++ s.bus.accessEvents .write a } := by
  unfold State.busWrite
  split
  · next h => simp [Bus.accessEvents, Bus.store, h, State.emit, State.setCycles]
  · next h => simp [Bus.accessEvents, h, State.setCycles, State.setBus]

/-- `Fetch8` (R62). -/
theorem State.fetch8_eq (s : State) :
    s.fetch8 =
      (s.bus.byteAt s.pc,
        { s with pc := s.pc + 1, cycles := s.cycles + 1, events := s.events ++ s.bus.accessEvents .read s.pc }) := by
  simp [State.fetch8, State.busRead_eq, State.setPc]

/-- `Fetch16` (R63). -/
theorem State.fetch16_eq (s : State) :
    s.fetch16 =
      (wordOf (s.bus.byteAt (s.pc + 1)) (s.bus.byteAt s.pc),
        { s with pc := s.pc + 1 + 1, cycles := s.cycles + 1 + 1,
                 events := s.events ++ s.bus.accessEvents .read s.pc ++ s.bus.accessEvents .read (s.pc + 1) }) := by
  simp [State.fetch16, State.fetch8_eq]

/-- The value of an 8-bit operand (R20). -/
def State.r8Value (s : State) : R8 → Byte
  | .b => s.r.b | .c => s.r.c | .d => s.r.d | .e => s.r.e | .h => s.r.h | .l => s.r.l
  | .mHL => s.bus.byteAt s.r.hl
  | .a => s.r.a

/-- Reading an 8-bit operand (R20): a register touches nothing, `[HL]` is one bus read. -/
theorem State.r8Read_eq (s : State) (i : R8) :
    s.r8Read i =
      (s.r8Value i,
        if i = .mHL then { s with cycles := s.cycles + 1, events := s.events ++ s.bus.accessEvents .read s.r.hl }
        else s) := by
  cases i <;> simp [State.r8Read, State.r8Value, State.busRead_eq]

/-- Reading an 8-bit operand leaves registers, flags, SP, PC, bus and parameters alone. -/
@[simp] theorem State.r8Read_snd_r (s : State) (i : R8) : (s.r8Read i).2.r = s.r := by
  rw [State.r8Read_eq]; dsimp only; split <;> rfl
@[simp] theorem State.r8Read_snd_f (s : State) (i : R8) : (s.r8Read i).2.f = s.f := by
  rw [State.r8Read_eq]; dsimp only; split <;> rfl
@[simp] theorem State.r8Read_snd_sp (s : State) (i : R8) : (s.r8Read i).2.sp = s.sp := by
  rw [State.r8Read_eq]; dsimp only; split <;> rfl
@[simp] theorem State.r8Read_snd_pc (s : State) (i : R8) : (s.r8Read i).2.pc = s.pc := by
  rw [State.r8Read_eq]; dsimp only; split <;> rfl
@[simp] theorem State.r8Read_snd_bus (s : State) (i : R8) : (s.r8Read i).2.bus = s.bus := by
  rw [State.r8Read_eq]; dsimp only; split <;> rfl
@[simp] theorem State.r8Read_snd_params (s : State) (i : R8) : (s.r8Read i).2.params = s.params := by
  rw [State.r8Read_eq]; dsimp only; split <;> rfl

/-- The registers after `r8[i] <- v` for a register operand (R21); `[HL]` writes none. -/
def Regs.put (r : Regs) (v : Byte) : R8 → Regs
  | .b => { r with b := v } | .c => { r with c := v } | .d => { r with d := v } | .e => { r with e := v }
  | .h => { r with h := v } | .l => { r with l := v } | .mHL => r | .a => { r with a := v }

/-- Writing an 8-bit operand (R21): one register, or one bus write at HL. -/
theorem State.r8Write_eq (s : State) (i : R8) (v : Byte) :
    s.r8Write i v =
      if i = .mHL then
        { s with bus := s.bus.store s.r.hl v, cycles := s.cycles + 1,
                 events := s.events ++ s.bus.accessEvents .write s.r.hl }
      else { s with r := s.r.put v i } := by
  cases i <;> simp [State.r8Write, State.busWrite_eq, Regs.put, State.setRegs]

/-- Pushing a byte (R201). -/
theorem State.pushByte_eq (s : State) (v : Byte) :
    s.pushByte v =
      { s with sp := s.sp - 1, bus := s.bus.store (s.sp - 1) v, cycles := s.cycles + 1,
               events := s.events ++ s.bus.accessEvents .write (s.sp - 1) } := by
  simp [State.pushByte, State.busWrite_eq, State.setSp]

/-- Popping a byte (R202). -/
theorem State.popByte_eq (s : State) :
    s.popByte =
      (s.bus.byteAt s.sp,
        { s with sp := s.sp + 1, cycles := s.cycles + 1, events := s.events ++ s.bus.accessEvents .read s.sp }) := by
  simp [State.popByte, State.busRead_eq, State.setSp]

/-- The address and the state of a Memory-mode operand (R24): only HL can change, by one either way. -/
theorem State.r16mem_eq (s : State) (p : R16Mem) :
    s.r16mem p =
      (match p with | .bc => s.r.bc | .de => s.r.de | .hlInc => s.r.hl | .hlDec => s.r.hl,
        s.setRegs (match p with
          | .bc => s.r | .de => s.r
          | .hlInc => s.r.setHl (s.r.hl + 1) | .hlDec => s.r.setHl (s.r.hl - 1))) := by
  cases p <;> rfl

/-- `(A, F) <- add8(A, x, c)` (R140). -/
theorem State.aluAdd_eq (s : State) (x : Byte) (c : Bool) :
    s.aluAdd x c = { s with r := { s.r with a := (add8 s.r.a x c).1 }, f := (add8 s.r.a x c).2 } := rfl

/-- `(A, F) <- sub8(A, x, c)` (R141). -/
theorem State.aluSub_eq (s : State) (x : Byte) (c : Bool) :
    s.aluSub x c = { s with r := { s.r with a := (sub8 s.r.a x c).1 }, f := (sub8 s.r.a x c).2 } := rfl

/-- `A <- v` with the logic flags (R147 to R149). -/
theorem State.aluLogic_eq (s : State) (v : Byte) (h : Bool) :
    s.aluLogic v h = { s with r := { s.r with a := v }, f := logicFlags h v } := rfl

/-- The end of `INC` and `DEC`: the operand written, C kept (R157, R158). -/
theorem State.incDecFinish_eq (s : State) (i : R8) (q : Byte × Flags) :
    s.incDecFinish i q = { s.r8Write i q.1 with f := { q.2 with c := s.f.c } } := rfl

/-- The result of `sub8` is the difference modulo 256 (R141). -/
theorem sub8_fst (a b : Byte) (c : Bool) : (sub8 a b c).1 = a - b - BitVec.ofNat 8 c.toNat := by
  apply BitVec.eq_of_toNat_eq
  have ha := a.isLt
  have hb := b.isLt
  have hc : c.toNat < 2 := by cases c <;> decide
  simp only [sub8, BitVec.toNat_ofInt, BitVec.toNat_sub, BitVec.toNat_ofNat]
  omega

end Sys2Proof.Machine
end

