-- ==== Sys2Proof/Laws/Fetch.lean ====
section
/-! SUPPORT. What fetching an instruction does, for each of the three lengths (spec/30_encoding.md R90, spec/40_step_dispatch.md
R120, R127); every opcode has one of them, so that `step` never ends in `noRow`. -/

namespace Sys2Proof.Machine

/-- A one-byte instruction. -/
theorem State.fetchInstr_one {s : State} {row : OpcodeRow} (h : rowOf (s.bus.byteAt s.pc) = some row)
    (hl : row.length = 1) :
    s.fetchInstr =
      some (row.build (s.bus.byteAt s.pc) 0 0,
        { s with pc := s.pc + 1, cycles := s.cycles + 1, events := s.events ++ s.bus.accessEvents .read s.pc }) := by
  simp [State.fetchInstr, State.fetch8_eq, h, hl]

/-- An instruction with an immediate byte. -/
theorem State.fetchInstr_two {s : State} {row : OpcodeRow} (h : rowOf (s.bus.byteAt s.pc) = some row)
    (hl : row.length = 2) :
    s.fetchInstr =
      some (row.build (s.bus.byteAt s.pc) (s.bus.byteAt (s.pc + 1)) 0,
        { s with pc := s.pc + 1 + 1, cycles := s.cycles + 1 + 1,
                 events := s.events ++ s.bus.accessEvents .read s.pc ++ s.bus.accessEvents .read (s.pc + 1) }) := by
  simp [State.fetchInstr, State.fetch8_eq, h, hl]

/-- An instruction with an immediate word, low byte first. -/
theorem State.fetchInstr_three {s : State} {row : OpcodeRow} (h : rowOf (s.bus.byteAt s.pc) = some row)
    (hl : row.length = 3) :
    s.fetchInstr =
      some (row.build (s.bus.byteAt s.pc) (s.bus.byteAt (s.pc + 1)) (s.bus.byteAt (s.pc + 1 + 1)),
        { s with pc := s.pc + 1 + 1 + 1, cycles := s.cycles + 1 + 1 + 1,
                 events := s.events ++ s.bus.accessEvents .read s.pc ++ s.bus.accessEvents .read (s.pc + 1) ++
                   s.bus.accessEvents .read (s.pc + 1 + 1) }) := by
  simp [State.fetchInstr, State.fetch8_eq, State.fetch16_eq, h, hl]

/-- Fetching an instruction always gives one (R96): no opcode is without a row. -/
theorem State.fetchInstr_isSome (s : State) : s.fetchInstr.isSome = true := by
  obtain ⟨row, h⟩ := exists_rowOf (s.bus.byteAt s.pc)
  rcases rowOf_length _ _ h with hl | hl | hl
  · rw [State.fetchInstr_one h hl]; rfl
  · rw [State.fetchInstr_two h hl]; rfl
  · rw [State.fetchInstr_three h hl]; rfl

/-- Placing bytes from outside keeps the invariant: arrays in canonical form, banks and parameters untouched. -/
theorem State.storeBytes_inv (bytes : List Byte) (s : State) (a : Word) (hi : s.Inv) :
    (s.setBus (s.bus.storeBytes a bytes)).Inv := by
  induction bytes generalizing s a with
  | nil => exact hi
  | cons v vs ih =>
    have h : (s.setBus (s.bus.store a v)).Inv :=
      ⟨hi.1, by simpa using hi.2.1, by simpa using hi.2.2.1, Bus.arraysWf_store hi a v⟩
    exact ih _ (a + 1) h

/-- Placing an instruction keeps the invariant. -/
theorem State.placeInstr_inv (bytes : List Byte) {s : State} (hi : s.Inv) : (s.placeInstr bytes).Inv :=
  State.storeBytes_inv bytes (s.setPc _) _ hi

end Sys2Proof.Machine
end

