-- ==== Sys2Proof/Laws/Interface.lean ====
section
/-! SUPPORT. Construction: the state after reset is one construction, the reset memory is in canonical form. -/

namespace Sys2Proof.Machine

/-- `State.reset` is `construct` on an image of 32768 zero bytes and the model's choice of the open parameters (R301; log 3
to 6). -/
theorem construct_default :
    construct (List.replicate 32768 Memory.unlisted) Setup.default = .next State.reset := by
  have hl : (List.replicate 32768 Memory.unlisted).length = 32768 := List.length_replicate
  rw [construct, hl, if_neg (by omega), Memory.ofBytes, Memory.ofBytesFrom_replicate]
  rfl

/-- The arrays of the reset state are in canonical form. -/
theorem reset_arraysWf : State.reset.bus.arraysWf State.reset.params = true := by decide

end Sys2Proof.Machine
end

