-- ==== Sys2Proof/Laws/PerInstr.lean ====
section
/-! SUPPORT. Per instruction, as syntax: its opcode byte selects a row of the table, of its own length and class. -/

/-- The opcode byte of a well-formed instruction finds a row, and that row's length and class are the instruction's (R97, R105). -/
def Sys2Proof.Laws.RowFound.Statement (i : Sys2Proof.Instr) : Prop :=
  i.wellFormed = true →
    ∃ row, Sys2Proof.rowOf (Sys2Proof.opcode i) = some row ∧ row.length = i.length ∧ row.cls = i.opClass

theorem Sys2Proof.Laws.RowFound.nop :
    Sys2Proof.Laws.RowFound.Statement .nop := fun _ => ⟨_, rfl, rfl, rfl⟩

theorem Sys2Proof.Laws.RowFound.ldR16Imm16 (p : Sys2Proof.R16) (v : Sys2Proof.Word) :
    Sys2Proof.Laws.RowFound.Statement (.ldR16Imm16 p v) := by
  intro _
  dsimp only [Sys2Proof.opcode]
  cases p <;> exact ⟨_, rfl, rfl, rfl⟩

theorem Sys2Proof.Laws.RowFound.ldR16memA (p : Sys2Proof.R16Mem) :
    Sys2Proof.Laws.RowFound.Statement (.ldR16memA p) := by
  intro _
  cases p <;> exact ⟨_, rfl, rfl, rfl⟩

theorem Sys2Proof.Laws.RowFound.incR16 (p : Sys2Proof.R16) :
    Sys2Proof.Laws.RowFound.Statement (.incR16 p) := by
  intro _
  cases p <;> exact ⟨_, rfl, rfl, rfl⟩

theorem Sys2Proof.Laws.RowFound.incR8 (r : Sys2Proof.R8) :
    Sys2Proof.Laws.RowFound.Statement (.incR8 r) := by
  intro _
  cases r <;> exact ⟨_, rfl, rfl, rfl⟩

theorem Sys2Proof.Laws.RowFound.decR8 (r : Sys2Proof.R8) :
    Sys2Proof.Laws.RowFound.Statement (.decR8 r) := by
  intro _
  cases r <;> exact ⟨_, rfl, rfl, rfl⟩

theorem Sys2Proof.Laws.RowFound.ldR8Imm8 (r : Sys2Proof.R8) (n : Sys2Proof.Byte) :
    Sys2Proof.Laws.RowFound.Statement (.ldR8Imm8 r n) := by
  intro _
  dsimp only [Sys2Proof.opcode]
  cases r <;> exact ⟨_, rfl, rfl, rfl⟩

theorem Sys2Proof.Laws.RowFound.rlca :
    Sys2Proof.Laws.RowFound.Statement .rlca := fun _ => ⟨_, rfl, rfl, rfl⟩

theorem Sys2Proof.Laws.RowFound.ldA16Sp :
    Sys2Proof.Laws.RowFound.Statement .ldA16Sp := fun _ => ⟨_, rfl, rfl, rfl⟩

theorem Sys2Proof.Laws.RowFound.addHlR16 (p : Sys2Proof.R16) :
    Sys2Proof.Laws.RowFound.Statement (.addHlR16 p) := by
  intro _
  cases p <;> exact ⟨_, rfl, rfl, rfl⟩

theorem Sys2Proof.Laws.RowFound.ldAR16mem (p : Sys2Proof.R16Mem) :
    Sys2Proof.Laws.RowFound.Statement (.ldAR16mem p) := by
  intro _
  cases p <;> exact ⟨_, rfl, rfl, rfl⟩

theorem Sys2Proof.Laws.RowFound.decR16 (p : Sys2Proof.R16) :
    Sys2Proof.Laws.RowFound.Statement (.decR16 p) := by
  intro _
  cases p <;> exact ⟨_, rfl, rfl, rfl⟩

theorem Sys2Proof.Laws.RowFound.rrca :
    Sys2Proof.Laws.RowFound.Statement .rrca := fun _ => ⟨_, rfl, rfl, rfl⟩

theorem Sys2Proof.Laws.RowFound.stop :
    Sys2Proof.Laws.RowFound.Statement .stop := fun _ => ⟨_, rfl, rfl, rfl⟩

theorem Sys2Proof.Laws.RowFound.rla :
    Sys2Proof.Laws.RowFound.Statement .rla := fun _ => ⟨_, rfl, rfl, rfl⟩

theorem Sys2Proof.Laws.RowFound.jrE8 :
    Sys2Proof.Laws.RowFound.Statement .jrE8 := fun _ => ⟨_, rfl, rfl, rfl⟩

theorem Sys2Proof.Laws.RowFound.rra :
    Sys2Proof.Laws.RowFound.Statement .rra := fun _ => ⟨_, rfl, rfl, rfl⟩

theorem Sys2Proof.Laws.RowFound.jrCcE8 (cc : Sys2Proof.Cond) :
    Sys2Proof.Laws.RowFound.Statement (.jrCcE8 cc) := by
  intro _
  cases cc <;> exact ⟨_, rfl, rfl, rfl⟩

theorem Sys2Proof.Laws.RowFound.daa :
    Sys2Proof.Laws.RowFound.Statement .daa := fun _ => ⟨_, rfl, rfl, rfl⟩

theorem Sys2Proof.Laws.RowFound.cpl :
    Sys2Proof.Laws.RowFound.Statement .cpl := fun _ => ⟨_, rfl, rfl, rfl⟩

theorem Sys2Proof.Laws.RowFound.scf :
    Sys2Proof.Laws.RowFound.Statement .scf := fun _ => ⟨_, rfl, rfl, rfl⟩

theorem Sys2Proof.Laws.RowFound.ccf :
    Sys2Proof.Laws.RowFound.Statement .ccf := fun _ => ⟨_, rfl, rfl, rfl⟩

theorem Sys2Proof.Laws.RowFound.halt :
    Sys2Proof.Laws.RowFound.Statement .halt := fun _ => ⟨_, rfl, rfl, rfl⟩

theorem Sys2Proof.Laws.RowFound.ldR8R8 (dst : Sys2Proof.R8) (src : Sys2Proof.R8) :
    Sys2Proof.Laws.RowFound.Statement (.ldR8R8 dst src) := by
  intro h
  cases dst <;> cases src <;> first | exact ⟨_, rfl, rfl, rfl⟩ | cases h

theorem Sys2Proof.Laws.RowFound.addAR8 (r : Sys2Proof.R8) :
    Sys2Proof.Laws.RowFound.Statement (.addAR8 r) := by
  intro _
  cases r <;> exact ⟨_, rfl, rfl, rfl⟩

theorem Sys2Proof.Laws.RowFound.adcAR8 (r : Sys2Proof.R8) :
    Sys2Proof.Laws.RowFound.Statement (.adcAR8 r) := by
  intro _
  cases r <;> exact ⟨_, rfl, rfl, rfl⟩

theorem Sys2Proof.Laws.RowFound.subAR8 (r : Sys2Proof.R8) :
    Sys2Proof.Laws.RowFound.Statement (.subAR8 r) := by
  intro _
  cases r <;> exact ⟨_, rfl, rfl, rfl⟩

theorem Sys2Proof.Laws.RowFound.sbcAR8 (r : Sys2Proof.R8) :
    Sys2Proof.Laws.RowFound.Statement (.sbcAR8 r) := by
  intro _
  cases r <;> exact ⟨_, rfl, rfl, rfl⟩

theorem Sys2Proof.Laws.RowFound.andAR8 (r : Sys2Proof.R8) :
    Sys2Proof.Laws.RowFound.Statement (.andAR8 r) := by
  intro _
  cases r <;> exact ⟨_, rfl, rfl, rfl⟩

theorem Sys2Proof.Laws.RowFound.xorAR8 (r : Sys2Proof.R8) :
    Sys2Proof.Laws.RowFound.Statement (.xorAR8 r) := by
  intro _
  cases r <;> exact ⟨_, rfl, rfl, rfl⟩

theorem Sys2Proof.Laws.RowFound.orAR8 (r : Sys2Proof.R8) :
    Sys2Proof.Laws.RowFound.Statement (.orAR8 r) := by
  intro _
  cases r <;> exact ⟨_, rfl, rfl, rfl⟩

theorem Sys2Proof.Laws.RowFound.cpAR8 (r : Sys2Proof.R8) :
    Sys2Proof.Laws.RowFound.Statement (.cpAR8 r) := by
  intro _
  cases r <;> exact ⟨_, rfl, rfl, rfl⟩

theorem Sys2Proof.Laws.RowFound.retCc (cc : Sys2Proof.Cond) :
    Sys2Proof.Laws.RowFound.Statement (.retCc cc) := by
  intro _
  cases cc <;> exact ⟨_, rfl, rfl, rfl⟩

theorem Sys2Proof.Laws.RowFound.popR16stk (p : Sys2Proof.R16Stk) :
    Sys2Proof.Laws.RowFound.Statement (.popR16stk p) := by
  intro _
  cases p <;> exact ⟨_, rfl, rfl, rfl⟩

theorem Sys2Proof.Laws.RowFound.jpCcA16 (cc : Sys2Proof.Cond) :
    Sys2Proof.Laws.RowFound.Statement (.jpCcA16 cc) := by
  intro _
  cases cc <;> exact ⟨_, rfl, rfl, rfl⟩

theorem Sys2Proof.Laws.RowFound.jpA16 :
    Sys2Proof.Laws.RowFound.Statement .jpA16 := fun _ => ⟨_, rfl, rfl, rfl⟩

theorem Sys2Proof.Laws.RowFound.callCcA16 (cc : Sys2Proof.Cond) :
    Sys2Proof.Laws.RowFound.Statement (.callCcA16 cc) := by
  intro _
  cases cc <;> exact ⟨_, rfl, rfl, rfl⟩

theorem Sys2Proof.Laws.RowFound.pushR16stk (p : Sys2Proof.R16Stk) :
    Sys2Proof.Laws.RowFound.Statement (.pushR16stk p) := by
  intro _
  cases p <;> exact ⟨_, rfl, rfl, rfl⟩

theorem Sys2Proof.Laws.RowFound.addAImm8 (n : Sys2Proof.Byte) :
    Sys2Proof.Laws.RowFound.Statement (.addAImm8 n) := by
  intro _
  dsimp only [Sys2Proof.opcode]
  exact ⟨_, rfl, rfl, rfl⟩

theorem Sys2Proof.Laws.RowFound.rstTgt (t : BitVec 3) :
    Sys2Proof.Laws.RowFound.Statement (.rstTgt t) := by
  intro _
  have h : ∀ k : BitVec 3, ∃ row, Sys2Proof.rowOf (Sys2Proof.opcode (.rstTgt k)) = some row ∧ row.length = 1 ∧
      row.cls = Sys2Proof.OpClass.absent := by
    intro k
    match k with
    | 0 => exact ⟨_, rfl, rfl, rfl⟩
    | 1 => exact ⟨_, rfl, rfl, rfl⟩
    | 2 => exact ⟨_, rfl, rfl, rfl⟩
    | 3 => exact ⟨_, rfl, rfl, rfl⟩
    | 4 => exact ⟨_, rfl, rfl, rfl⟩
    | 5 => exact ⟨_, rfl, rfl, rfl⟩
    | 6 => exact ⟨_, rfl, rfl, rfl⟩
    | 7 => exact ⟨_, rfl, rfl, rfl⟩
  exact h t

theorem Sys2Proof.Laws.RowFound.ret :
    Sys2Proof.Laws.RowFound.Statement .ret := fun _ => ⟨_, rfl, rfl, rfl⟩

theorem Sys2Proof.Laws.RowFound.prefixCb :
    Sys2Proof.Laws.RowFound.Statement .prefixCb := fun _ => ⟨_, rfl, rfl, rfl⟩

theorem Sys2Proof.Laws.RowFound.callA16 :
    Sys2Proof.Laws.RowFound.Statement .callA16 := fun _ => ⟨_, rfl, rfl, rfl⟩

theorem Sys2Proof.Laws.RowFound.adcAImm8 (n : Sys2Proof.Byte) :
    Sys2Proof.Laws.RowFound.Statement (.adcAImm8 n) := by
  intro _
  dsimp only [Sys2Proof.opcode]
  exact ⟨_, rfl, rfl, rfl⟩

theorem Sys2Proof.Laws.RowFound.subAImm8 (n : Sys2Proof.Byte) :
    Sys2Proof.Laws.RowFound.Statement (.subAImm8 n) := by
  intro _
  dsimp only [Sys2Proof.opcode]
  exact ⟨_, rfl, rfl, rfl⟩

theorem Sys2Proof.Laws.RowFound.reti :
    Sys2Proof.Laws.RowFound.Statement .reti := fun _ => ⟨_, rfl, rfl, rfl⟩

theorem Sys2Proof.Laws.RowFound.sbcAImm8 (n : Sys2Proof.Byte) :
    Sys2Proof.Laws.RowFound.Statement (.sbcAImm8 n) := by
  intro _
  dsimp only [Sys2Proof.opcode]
  exact ⟨_, rfl, rfl, rfl⟩

theorem Sys2Proof.Laws.RowFound.ldhA8A (n : Sys2Proof.Byte) :
    Sys2Proof.Laws.RowFound.Statement (.ldhA8A n) := by
  intro _
  dsimp only [Sys2Proof.opcode]
  exact ⟨_, rfl, rfl, rfl⟩

theorem Sys2Proof.Laws.RowFound.ldhCA :
    Sys2Proof.Laws.RowFound.Statement .ldhCA := fun _ => ⟨_, rfl, rfl, rfl⟩

theorem Sys2Proof.Laws.RowFound.andAImm8 (n : Sys2Proof.Byte) :
    Sys2Proof.Laws.RowFound.Statement (.andAImm8 n) := by
  intro _
  dsimp only [Sys2Proof.opcode]
  exact ⟨_, rfl, rfl, rfl⟩

theorem Sys2Proof.Laws.RowFound.addSpE8 (n : Sys2Proof.Byte) :
    Sys2Proof.Laws.RowFound.Statement (.addSpE8 n) := by
  intro _
  dsimp only [Sys2Proof.opcode]
  exact ⟨_, rfl, rfl, rfl⟩

theorem Sys2Proof.Laws.RowFound.jpHl :
    Sys2Proof.Laws.RowFound.Statement .jpHl := fun _ => ⟨_, rfl, rfl, rfl⟩

theorem Sys2Proof.Laws.RowFound.ldA16A :
    Sys2Proof.Laws.RowFound.Statement .ldA16A := fun _ => ⟨_, rfl, rfl, rfl⟩

theorem Sys2Proof.Laws.RowFound.xorAImm8 (n : Sys2Proof.Byte) :
    Sys2Proof.Laws.RowFound.Statement (.xorAImm8 n) := by
  intro _
  dsimp only [Sys2Proof.opcode]
  exact ⟨_, rfl, rfl, rfl⟩

theorem Sys2Proof.Laws.RowFound.ldhAA8 (n : Sys2Proof.Byte) :
    Sys2Proof.Laws.RowFound.Statement (.ldhAA8 n) := by
  intro _
  dsimp only [Sys2Proof.opcode]
  exact ⟨_, rfl, rfl, rfl⟩

theorem Sys2Proof.Laws.RowFound.ldhAC :
    Sys2Proof.Laws.RowFound.Statement .ldhAC := fun _ => ⟨_, rfl, rfl, rfl⟩

theorem Sys2Proof.Laws.RowFound.di :
    Sys2Proof.Laws.RowFound.Statement .di := fun _ => ⟨_, rfl, rfl, rfl⟩

theorem Sys2Proof.Laws.RowFound.orAImm8 (n : Sys2Proof.Byte) :
    Sys2Proof.Laws.RowFound.Statement (.orAImm8 n) := by
  intro _
  dsimp only [Sys2Proof.opcode]
  exact ⟨_, rfl, rfl, rfl⟩

theorem Sys2Proof.Laws.RowFound.ldHlSpE8 (n : Sys2Proof.Byte) :
    Sys2Proof.Laws.RowFound.Statement (.ldHlSpE8 n) := by
  intro _
  dsimp only [Sys2Proof.opcode]
  exact ⟨_, rfl, rfl, rfl⟩

theorem Sys2Proof.Laws.RowFound.ldSpHl :
    Sys2Proof.Laws.RowFound.Statement .ldSpHl := fun _ => ⟨_, rfl, rfl, rfl⟩

theorem Sys2Proof.Laws.RowFound.ldAA16 :
    Sys2Proof.Laws.RowFound.Statement .ldAA16 := fun _ => ⟨_, rfl, rfl, rfl⟩

theorem Sys2Proof.Laws.RowFound.ei :
    Sys2Proof.Laws.RowFound.Statement .ei := fun _ => ⟨_, rfl, rfl, rfl⟩

theorem Sys2Proof.Laws.RowFound.cpAImm8 :
    Sys2Proof.Laws.RowFound.Statement .cpAImm8 := fun _ => ⟨_, rfl, rfl, rfl⟩

theorem Sys2Proof.Laws.RowFound.illegalD3 :
    Sys2Proof.Laws.RowFound.Statement .illegalD3 := fun _ => ⟨_, rfl, rfl, rfl⟩

theorem Sys2Proof.Laws.RowFound.illegalDB :
    Sys2Proof.Laws.RowFound.Statement .illegalDB := fun _ => ⟨_, rfl, rfl, rfl⟩

theorem Sys2Proof.Laws.RowFound.illegalDD :
    Sys2Proof.Laws.RowFound.Statement .illegalDD := fun _ => ⟨_, rfl, rfl, rfl⟩

theorem Sys2Proof.Laws.RowFound.illegalE3 :
    Sys2Proof.Laws.RowFound.Statement .illegalE3 := fun _ => ⟨_, rfl, rfl, rfl⟩

theorem Sys2Proof.Laws.RowFound.illegalE4 :
    Sys2Proof.Laws.RowFound.Statement .illegalE4 := fun _ => ⟨_, rfl, rfl, rfl⟩

theorem Sys2Proof.Laws.RowFound.illegalEB :
    Sys2Proof.Laws.RowFound.Statement .illegalEB := fun _ => ⟨_, rfl, rfl, rfl⟩

theorem Sys2Proof.Laws.RowFound.illegalEC :
    Sys2Proof.Laws.RowFound.Statement .illegalEC := fun _ => ⟨_, rfl, rfl, rfl⟩

theorem Sys2Proof.Laws.RowFound.illegalED :
    Sys2Proof.Laws.RowFound.Statement .illegalED := fun _ => ⟨_, rfl, rfl, rfl⟩

theorem Sys2Proof.Laws.RowFound.illegalF4 :
    Sys2Proof.Laws.RowFound.Statement .illegalF4 := fun _ => ⟨_, rfl, rfl, rfl⟩

theorem Sys2Proof.Laws.RowFound.illegalFC :
    Sys2Proof.Laws.RowFound.Statement .illegalFC := fun _ => ⟨_, rfl, rfl, rfl⟩

theorem Sys2Proof.Laws.RowFound.illegalFD :
    Sys2Proof.Laws.RowFound.Statement .illegalFD := fun _ => ⟨_, rfl, rfl, rfl⟩
end

