-- ==== Sys2Proof/Tests/Slice0.lean ====
section
/-! SUPPORT. The model's own tests. Every expected result is the spec's: a vector V<n> or B<n> of spec/95_test_vectors.md, an
encoding written out from the patterns of spec/30_encoding.md R93 and R97, or a rule's own example. Last, one witness or more for
every obligation that has hypotheses. -/

namespace Sys2Proof.Tests

open Sys2Proof.Machine Sys2Proof.Spec

/-! ## Helpers -/

/-- The harness of spec/95_test_vectors.md: reset, but SP 0xDFF0, PC 0xC000 and both switchable windows on bank 1. -/
def bench : State :=
  { State.reset with sp := 0xDFF0, pc := 0xC000, bus := { State.reset.bus with romBank := 1, wramBank := 1 } }

/-- A byte placed in memory, without a cycle. -/
def poke (s : State) (a : Word) (v : Byte) : State := s.setBus (s.bus.store a v)

/-- Instruction bytes placed at PC upward. -/
def load (s : State) (bytes : List Byte) : State := s.setBus (s.bus.storeBytes s.pc bytes)

/-- An outcome is a next state with a property. -/
def isNext (o : Host.Outcome State Fault Refusal) (p : State → Bool) : Bool :=
  match o with
  | .next t => p t
  | .fault _ => false
  | .refused _ => false

/-- A step answers a next state with a property. -/
def nextHas (s : State) (p : State → Bool) : Bool := isNext (step s) p

/-- A step is refused as NotSpecified, for this opcode. -/
def refusesWith (s : State) (op : Byte) : Bool :=
  match step s with
  | .next _ => false
  | .fault _ => false
  | .refused e => e == .notSpecified op

/-- Each row's bytes decode to its instruction with nothing left, and the instruction encodes to the bytes. -/
def codes (rows : List (List Byte × Instr)) : Bool :=
  rows.all fun p =>
    (match decode p.1 with
      | .ok q => q == (p.2, [])
      | .error _ => false) && encode p.2 == p.1

theorem exists_next {o : Host.Outcome State Fault Refusal} (h : isNext o (fun _ => true) = true) : ∃ t, o = .next t := by
  cases o with
  | next t => exact ⟨t, rfl⟩
  | fault e => cases h
  | refused e => cases h

/-! ## WellFormed: the one check -/

/-- The ill-formed term is refused: both fields `[HL]` is not `LD r8,r8'` (R100, R181). -/
theorem test_wellFormed_refuses_both_memory : (Instr.ldR8R8 .mHL .mHL).wellFormed = false := by decide
theorem test_wellFormed_accepts_store : (Instr.ldR8R8 .mHL .b).wellFormed = true := by decide
theorem test_wellFormed_accepts_load : (Instr.ldR8R8 .b .mHL).wellFormed = true := by decide

/-! ## Decoding: every constructor, by a word written out from its pattern -/

theorem test_codes_load8 : codes [
    ([0b00_000_000], .nop), ([0b01_000_001], .ldR8R8 .b .c), ([0b01_110_111], .ldR8R8 .mHL .a),
    ([0b01_100_110], .ldR8R8 .h .mHL), ([0b00_110_110, 0xAB], .ldR8Imm8 .mHL 0xAB), ([0b00_101_110, 0x05], .ldR8Imm8 .l 0x05),
    ([0b00_00_0010], .ldR16memA .bc), ([0b00_10_0010], .ldR16memA .hlInc), ([0b00_01_1010], .ldAR16mem .de),
    ([0b00_11_1010], .ldAR16mem .hlDec), ([0b11100000, 0x40], .ldhA8A 0x40), ([0b11110000, 0x85], .ldhAA8 0x85)] = true := by
  decide

theorem test_codes_alu8 : codes [
    ([0b10_000_000], .addAR8 .b), ([0b10_001_001], .adcAR8 .c), ([0b10_010_010], .subAR8 .d), ([0b10_011_011], .sbcAR8 .e),
    ([0b10_100_100], .andAR8 .h), ([0b10_101_101], .xorAR8 .l), ([0b10_110_110], .orAR8 .mHL), ([0b10_110_111], .orAR8 .a),
    ([0b00_010_100], .incR8 .d), ([0b00_111_101], .decR8 .a)] = true := by
  decide

theorem test_codes_alu8_immediate : codes [
    ([0b11_000_110, 0x01], .addAImm8 0x01), ([0b11_001_110, 0x02], .adcAImm8 0x02), ([0b11_010_110, 0x03], .subAImm8 0x03),
    ([0b11_011_110, 0x04], .sbcAImm8 0x04), ([0b11_100_110, 0x05], .andAImm8 0x05), ([0b11_101_110, 0x06], .xorAImm8 0x06),
    ([0b11_110_110, 0x07], .orAImm8 0x07)] = true := by
  decide

theorem test_codes_word : codes [
    ([0b00_10_1001], .addHlR16 .hl), ([0b11101000, 0xFE], .addSpE8 0xFE), ([0b11111000, 0x7F], .ldHlSpE8 0x7F),
    ([0b00_11_0001, 0xFE, 0xFF], .ldR16Imm16 .sp 0xFFFE), ([0b00_00_0001, 0xCD, 0xAB], .ldR16Imm16 .bc 0xABCD),
    ([0b11_01_0101], .pushR16stk .de), ([0b11_11_0001], .popR16stk .af)] = true := by
  decide

theorem test_codes_absent_rotates_and_jumps : codes [
    ([0b00_000_111], .rlca), ([0b00_001_111], .rrca), ([0b00_010_111], .rla), ([0b00_011_111], .rra), ([0b00011000], .jrE8),
    ([0b001_10_000], .jrCcE8 .nc), ([0b01110110], .halt), ([0b110_01_010], .jpCcA16 .z), ([0b11000011], .jpA16),
    ([0b11101001], .jpHl)] = true := by
  decide

theorem test_codes_absent_calls_and_control : codes [
    ([0b110_11_000], .retCc .c), ([0b11001001], .ret), ([0b11011001], .reti), ([0b110_00_100], .callCcA16 .nz),
    ([0b11001101], .callA16), ([0b11_101_111], .rstTgt 5), ([0b11110011], .di), ([0b11111011], .ei),
    ([0b11001011], .prefixCb)] = true := by
  decide

theorem test_codes_no_instruction : codes [
    ([0xD3], .illegalD3), ([0xDB], .illegalDB), ([0xDD], .illegalDD), ([0xE3], .illegalE3), ([0xE4], .illegalE4),
    ([0xEB], .illegalEB), ([0xEC], .illegalEC), ([0xED], .illegalED), ([0xF4], .illegalF4), ([0xFC], .illegalFC),
    ([0xFD], .illegalFD)] = true := by
  decide

theorem test_codes_unnamed : codes [
    ([0b00_11_0011], .incR16 .sp), ([0b00_01_1011], .decR16 .de), ([0b00001000], .ldA16Sp), ([0b00010000], .stop),
    ([0b00_100_111], .daa), ([0b00_101_111], .cpl), ([0b00_110_111], .scf), ([0b00_111_111], .ccf)] = true := by
  decide

theorem test_codes_unnamed_block23 : codes [
    ([0b10_111_110], .cpAR8 .mHL), ([0b11_111_110], .cpAImm8), ([0b11100010], .ldhCA), ([0b11110010], .ldhAC),
    ([0b11101010], .ldA16A), ([0b11111010], .ldAA16), ([0b11111001], .ldSpHl)] = true := by
  decide

/-- A table word: bit 0 is the least significant bit of the first byte, and bits above `nbits` are 0. -/
theorem test_decodeTableWord :
    decodeTableWord 24 0x123421 = some (.ldR16Imm16 .hl 0x1234) ∧ decodeTableWord 16 0x7FC6 = some (.addAImm8 0x7F) ∧
    decodeTableWord 8 0x36 = some (.ldR8Imm8 .mHL 0x00) ∧ decodeTableWord 8 0xEA = some .ldA16A := by
  decide

/-- The instruction placed by `withFetchWord` is the first after reset. -/
theorem test_withFetchWord_at_reset :
    nextHas (State.reset.withFetchWord 24 0x123421) (fun t => t.r.h == 0x12 && t.r.l == 0x34 && t.pc == 3) = true := by
  decide

/-- Where PC stands at unmapped addresses, `withFetchWord` moves it. -/
theorem test_withFetchWord_at_unmapped :
    nextHas ((bench.setPc 0xFE9F).withFetchWord 8 0x3C) (fun t => t.r.a == 1 && t.pc == 0xC001) = true := by
  decide

/-! ## One step: vectors of spec/95_test_vectors.md, section 2 -/

/-- V1: `NOP` (R129). -/
theorem test_nop :
    nextHas (load bench [0x00])
      (fun t => t.pc == 0xC001 && t.cycles == 1) = true := by decide

/-- V3: `opcode fetched from unmapped 0xFEA0` (R121, R69). -/
theorem test_nop_unmapped :
    nextHas (bench.setPair .pc 0xFEA0)
      (fun t => t.pc == 0xFEA1 && t.cycles == 1 && t.events == [.unmappedAccess .read 0xFEA0]) = true := by decide

/-- V11: `ADD A,A` (R143). -/
theorem test_addAR8 :
    nextHas (load (bench.setReg8 .a 0x88) [0x87])
      (fun t => t.r.a == 0x10 && t.f == ⟨false, false, true, true⟩ && t.pc == 0xC001 && t.cycles == 1) = true := by decide

/-- V12: `ADD A,[HL]` (R143). -/
theorem test_addAR8_memory :
    nextHas (poke (load ((bench.setReg8 .a 0x0F).setPair .hl 0xC100) [0x86]) 0xC100 0x01)
      (fun t => t.r.a == 0x10 && t.f == ⟨false, false, true, false⟩ && t.pc == 0xC001 && t.cycles == 2) = true := by decide

/-- V14: `ADC A,B` (R144). -/
theorem test_adcAR8 :
    nextHas (load (((bench.setReg8 .a 0x00).setReg8 .b 0xFF).setFlags ⟨false, false, false, true⟩) [0x88])
      (fun t => t.r.a == 0x00 && t.f == ⟨true, false, true, true⟩ && t.pc == 0xC001 && t.cycles == 1) = true := by decide

/-- V15: `ADC A,C` (R144). -/
theorem test_adcAR8_carry_and_full :
    nextHas (load (((bench.setReg8 .a 0xFF).setReg8 .c 0xFF).setFlags ⟨false, false, false, true⟩) [0x89])
      (fun t => t.r.a == 0xFF && t.f == ⟨false, false, true, true⟩ && t.pc == 0xC001 && t.cycles == 1) = true := by decide

/-- V16: `SUB A,[HL]` (R145). -/
theorem test_subAR8_memory :
    nextHas (poke (load ((bench.setReg8 .a 0x3E).setPair .hl 0xC100) [0x96]) 0xC100 0x40)
      (fun t => t.r.a == 0xFE && t.f == ⟨false, true, false, true⟩ && t.pc == 0xC001 && t.cycles == 2) = true := by decide

/-- V18: `SUB A,D` (R145). -/
theorem test_subAR8_borrow :
    nextHas (load ((bench.setReg8 .a 0x00).setReg8 .d 0x01) [0x92])
      (fun t => t.r.a == 0xFF && t.f == ⟨false, true, true, true⟩ && t.pc == 0xC001 && t.cycles == 1) = true := by decide

/-- V19a: `SBC A,B` (R146). -/
theorem test_sbcAR8_borrow_of_256 :
    nextHas (load (((bench.setReg8 .a 0x00).setReg8 .b 0xFF).setFlags ⟨false, false, false, true⟩) [0x98])
      (fun t => t.r.a == 0x00 && t.f == ⟨true, true, true, true⟩ && t.pc == 0xC001 && t.cycles == 1) = true := by decide

/-- V19b: `SBC A,A` (R146). -/
theorem test_sbcAR8_self :
    nextHas (load ((bench.setReg8 .a 0x77).setFlags ⟨false, false, false, true⟩) [0x9F])
      (fun t => t.r.a == 0xFF && t.f == ⟨false, true, true, true⟩ && t.pc == 0xC001 && t.cycles == 1) = true := by decide

/-- V19c: `AND A,L` (R147). -/
theorem test_andAR8 :
    nextHas (load (((bench.setReg8 .a 0x5A).setReg8 .l 0x3F).setFlags ⟨false, true, false, true⟩) [0xA5])
      (fun t => t.r.a == 0x1A && t.f == ⟨false, false, true, false⟩ && t.pc == 0xC001 && t.cycles == 1) = true := by decide

/-- V19e: `XOR A,B` (R148). -/
theorem test_xorAR8 :
    nextHas (load (((bench.setReg8 .a 0xFF).setReg8 .b 0x0F).setFlags ⟨false, false, true, true⟩) [0xA8])
      (fun t => t.r.a == 0xF0 && t.f == ⟨false, false, false, false⟩ && t.pc == 0xC001 && t.cycles == 1) = true := by decide

/-- V19g: `OR A,C` (R149). -/
theorem test_orAR8 :
    nextHas (load ((bench.setReg8 .a 0x5A).setReg8 .c 0x03) [0xB1])
      (fun t => t.r.a == 0x5B && t.f == ⟨false, false, false, false⟩ && t.pc == 0xC001 && t.cycles == 1) = true := by decide

/-- V20: `ADD A,imm8` (R150). -/
theorem test_addAImm8 :
    nextHas (load (bench.setReg8 .a 0x3C) [0xC6, 0xFF])
      (fun t => t.r.a == 0x3B && t.f == ⟨false, false, true, true⟩ && t.pc == 0xC002 && t.cycles == 2) = true := by decide

/-- V29: `ADD A,imm8 across the PC wrap` (R150, R15). -/
theorem test_addAImm8_across_pc_wrap :
    nextHas (poke (load ((bench.setReg8 .a 0x01).setPair .pc 0xFFFF) [0xC6, 0x01]) 0x0000 0x01)
      (fun t => t.r.a == 0x02 && t.f == ⟨false, false, false, false⟩ && t.pc == 0x0001 && t.cycles == 2) = true := by decide

/-- V22: `ADC A,imm8` (R151). -/
theorem test_adcAImm8 :
    nextHas (load ((bench.setReg8 .a 0xE1).setFlags ⟨false, false, false, true⟩) [0xCE, 0x3B])
      (fun t => t.r.a == 0x1D && t.f == ⟨false, false, false, true⟩ && t.pc == 0xC002 && t.cycles == 2) = true := by decide

/-- V23: `SUB A,imm8` (R152). -/
theorem test_subAImm8 :
    nextHas (load (bench.setReg8 .a 0x3E) [0xD6, 0x0F])
      (fun t => t.r.a == 0x2F && t.f == ⟨false, true, true, false⟩ && t.pc == 0xC002 && t.cycles == 2) = true := by decide

/-- V25: `SBC A,imm8` (R153, R141). -/
theorem test_sbcAImm8 :
    nextHas (load ((bench.setReg8 .a 0x10).setFlags ⟨false, false, false, true⟩) [0xDE, 0xFF])
      (fun t => t.r.a == 0x10 && t.f == ⟨false, true, true, true⟩ && t.pc == 0xC002 && t.cycles == 2) = true := by decide

/-- V26: `AND A,imm8` (R154). -/
theorem test_andAImm8 :
    nextHas (load (bench.setReg8 .a 0x5A) [0xE6, 0x38])
      (fun t => t.r.a == 0x18 && t.f == ⟨false, false, true, false⟩ && t.pc == 0xC002 && t.cycles == 2) = true := by decide

/-- V27: `XOR A,imm8` (R155). -/
theorem test_xorAImm8 :
    nextHas (load (bench.setReg8 .a 0xFF) [0xEE, 0xFF])
      (fun t => t.r.a == 0x00 && t.f == ⟨true, false, false, false⟩ && t.pc == 0xC002 && t.cycles == 2) = true := by decide

/-- V28: `OR A,imm8` (R156). -/
theorem test_orAImm8 :
    nextHas (load ((bench.setReg8 .a 0x00).setFlags ⟨false, false, false, true⟩) [0xF6, 0x00])
      (fun t => t.r.a == 0x00 && t.f == ⟨true, false, false, false⟩ && t.pc == 0xC002 && t.cycles == 2) = true := by decide

/-- V31: `INC B, carry set before` (R157). -/
theorem test_incR8_keeps_carry :
    nextHas (load ((bench.setReg8 .b 0xFF).setFlags ⟨false, false, false, true⟩) [0x04])
      (fun t => t.r.b == 0x00 && t.f == ⟨true, false, true, true⟩ && t.pc == 0xC001 && t.cycles == 1) = true := by decide

/-- V33: `INC [HL]` (R157). -/
theorem test_incR8_memory :
    nextHas (poke (load (bench.setPair .hl 0xC200) [0x34]) 0xC200 0x7F)
      (fun t => t.f == ⟨false, false, true, false⟩ && t.bus.byteAt 0xC200 == 0x80 && t.pc == 0xC001 &&
        t.cycles == 3) = true := by decide

/-- V34: `DEC L` (R158). -/
theorem test_decR8 :
    nextHas (load ((bench.setReg8 .l 0x01).setFlags ⟨false, false, false, true⟩) [0x2D])
      (fun t => t.r.l == 0x00 && t.f == ⟨true, true, false, true⟩ && t.pc == 0xC001 && t.cycles == 1) = true := by decide

/-- V37: `DEC [HL]` (R158). -/
theorem test_decR8_memory :
    nextHas (poke (load (bench.setPair .hl 0xC200) [0x35]) 0xC200 0x00)
      (fun t => t.f == ⟨false, true, true, false⟩ && t.bus.byteAt 0xC200 == 0xFF && t.pc == 0xC001 &&
        t.cycles == 3) = true := by decide

/-- V40: `ADD HL,BC` (R170). -/
theorem test_addHlR16_keeps_zero :
    nextHas (load (((bench.setPair .bc 0x0605).setPair .hl 0x8A23).setFlags ⟨true, true, false, false⟩) [0x09])
      (fun t => t.r.h == 0x90 && t.r.l == 0x28 && t.f == ⟨true, false, true, false⟩ && t.pc == 0xC001 &&
        t.cycles == 2) = true := by decide

/-- V42: `ADD HL,HL` (R170). -/
theorem test_addHlR16_self :
    nextHas (load (bench.setPair .hl 0x8800) [0x29])
      (fun t => t.r.h == 0x10 && t.f == ⟨false, false, true, true⟩ && t.pc == 0xC001 && t.cycles == 2) = true := by decide

/-- V51: `ADD SP,e8 (-1)` (R172). -/
theorem test_addSpE8 :
    nextHas (load (bench.setPair .sp 0x0001) [0xE8, 0xFF])
      (fun t => t.sp == 0x0000 && t.f == ⟨false, false, true, true⟩ && t.pc == 0xC002 && t.cycles == 4) = true := by decide

/-- V54: `ADD SP,e8 (-128)` (R172, R174). -/
theorem test_addSpE8_most_negative :
    nextHas (load ((bench.setPair .sp 0x0000).setFlags ⟨true, false, false, false⟩) [0xE8, 0x80])
      (fun t => t.sp == 0xFF80 && t.f == ⟨false, false, false, false⟩ && t.pc == 0xC002 && t.cycles == 4) = true := by decide

/-- V57: `LD HL,SP+e8 (-2)` (R173). -/
theorem test_ldHlSpE8 :
    nextHas (load (bench.setPair .sp 0xFFF8) [0xF8, 0xFE])
      (fun t => t.r.h == 0xFF && t.r.l == 0xF6 && t.sp == 0xFFF8 && t.f == ⟨false, false, true, true⟩ && t.pc == 0xC002 &&
        t.cycles == 3) = true := by decide

/-- V58: `LD HL,SP+e8 (0)` (R173). -/
theorem test_ldHlSpE8_zero :
    nextHas (load (((bench.setPair .hl 0xFFFF).setPair .sp 0x1234).setFlags ⟨true, true, true, true⟩) [0xF8, 0x00])
      (fun t => t.r.h == 0x12 && t.r.l == 0x34 && t.sp == 0x1234 && t.f == ⟨false, false, false, false⟩ && t.pc == 0xC002 &&
        t.cycles == 3) = true := by decide

/-- V62: `LD [HL],B` (R181). -/
theorem test_ldR8R8_store :
    nextHas (load ((bench.setReg8 .b 0x12).setPair .hl 0xC100) [0x70])
      (fun t => t.bus.byteAt 0xC100 == 0x12 && t.pc == 0xC001 && t.cycles == 2) = true := by decide

/-- V63: `LD H,[HL]` (R181). -/
theorem test_ldR8R8_source_is_destination :
    nextHas (poke (load (bench.setPair .hl 0xC100) [0x66]) 0xC100 0xD0)
      (fun t => t.r.h == 0xD0 && t.pc == 0xC001 && t.cycles == 2) = true := by decide

/-- V66: `LD A,imm8` (R182). -/
theorem test_ldR8Imm8 :
    nextHas (load bench [0x3E, 0x7F])
      (fun t => t.r.a == 0x7F && t.pc == 0xC002 && t.cycles == 2) = true := by decide

/-- V67: `LD [HL],imm8` (R182). -/
theorem test_ldR8Imm8_memory :
    nextHas (load (bench.setPair .hl 0xC300) [0x36, 0xAB])
      (fun t => t.bus.byteAt 0xC300 == 0xAB && t.pc == 0xC002 && t.cycles == 3) = true := by decide

/-- V68: `LD [BC],A` (R183). -/
theorem test_ldR16memA :
    nextHas (load ((bench.setReg8 .a 0x77).setPair .bc 0xC400) [0x02])
      (fun t => t.bus.byteAt 0xC400 == 0x77 && t.pc == 0xC001 && t.cycles == 2) = true := by decide

/-- V72: `LD [HL-],A at address 0 (ROM is written)` (R183, R68). -/
theorem test_ldR16memA_rom_is_written :
    nextHas (load ((bench.setReg8 .a 0x9C).setPair .hl 0x0000) [0x32])
      (fun t => t.r.h == 0xFF && t.r.l == 0xFF && t.bus.byteAt 0x0000 == 0x9C && t.pc == 0xC001 &&
        t.cycles == 2) = true := by decide

/-- V73: `LD A,[DE]` (R184). -/
theorem test_ldAR16mem :
    nextHas (poke (load (bench.setPair .de 0xC500) [0x1A]) 0xC500 0x31)
      (fun t => t.r.a == 0x31 && t.pc == 0xC001 && t.cycles == 2) = true := by decide

/-- V75: `LD A,[HL-]` (R184). -/
theorem test_ldAR16mem_decrement :
    nextHas (poke (load (bench.setPair .hl 0xC001) [0x3A]) 0xC001 0x9A)
      (fun t => t.r.a == 0x9A && t.r.l == 0x00 && t.pc == 0xC001 && t.cycles == 2) = true := by decide

/-- V77: `LDH [a8],A (0xFFFF)` (R185, R57). -/
theorem test_ldhA8A_top :
    nextHas (load (bench.setReg8 .a 0x1F) [0xE0, 0xFF])
      (fun t => t.bus.byteAt 0xFFFF == 0x1F && t.pc == 0xC002 && t.cycles == 3) = true := by decide

/-- V78: `LDH A,[a8]` (R186). -/
theorem test_ldhAA8 :
    nextHas (poke (load bench [0xF0, 0x85]) 0xFF85 0x3C)
      (fun t => t.r.a == 0x3C && t.pc == 0xC002 && t.cycles == 3) = true := by decide

/-- V7A: `LD HL,imm16` (R200). -/
theorem test_ldR16Imm16 :
    nextHas (load bench [0x21, 0x34, 0x12])
      (fun t => t.r.h == 0x12 && t.r.l == 0x34 && t.pc == 0xC003 && t.cycles == 3) = true := by decide

/-- V7C: `LD BC,imm16 across the PC wrap` (R200, R63). -/
theorem test_ldR16Imm16_across_pc_wrap :
    nextHas (poke (load (bench.setPair .pc 0xFFFE) [0x01, 0xCD, 0xAB]) 0x0000 0xAB)
      (fun t => t.r.b == 0xAB && t.r.c == 0xCD && t.pc == 0x0001 && t.cycles == 3) = true := by decide

/-- V81: `PUSH AF` (R201). -/
theorem test_pushR16stk_af :
    nextHas (load (((bench.setReg8 .a 0xEF).setPair .sp 0xD002).setFlags ⟨true, false, true, false⟩) [0xF5])
      (fun t => t.sp == 0xD000 && t.f == ⟨true, false, true, false⟩ && t.bus.byteAt 0xD001 == 0xEF &&
        t.bus.byteAt 0xD000 == 0xA0 && t.pc == 0xC001 && t.cycles == 4) = true := by decide

/-- V82: `PUSH HL with SP=0x0001` (R201, R68). -/
theorem test_pushR16stk_wraps :
    nextHas (load ((bench.setPair .hl 0xBEEF).setPair .sp 0x0001) [0xE5])
      (fun t => t.sp == 0xFFFF && t.bus.byteAt 0x0000 == 0xBE && t.bus.byteAt 0xFFFF == 0xEF && t.pc == 0xC001 &&
        t.cycles == 4) = true := by decide

/-- V84: `POP AF` (R202). -/
theorem test_popR16stk_af :
    nextHas (poke (poke (load (bench.setPair .sp 0xD000) [0xF1]) 0xD000 0xFF) 0xD001 0x12)
      (fun t => t.r.a == 0x12 && t.sp == 0xD002 && t.f == ⟨true, true, true, true⟩ && t.pc == 0xC001 &&
        t.cycles == 3) = true := by decide

/-- V86: `POP HL with SP=0xFFFF` (R202). -/
theorem test_popR16stk_wraps :
    nextHas (poke (poke (load (bench.setPair .sp 0xFFFF) [0xE1]) 0x0000 0x56) 0xFFFF 0x78)
      (fun t => t.r.h == 0x56 && t.r.l == 0x78 && t.sp == 0x0001 && t.pc == 0xC001 && t.cycles == 3) = true := by decide

/-- V90: `JP a16 (class A)` (R222, R270). -/
theorem test_jpA16 :
    nextHas (load ((bench.setReg8 .a 0x11).setFlags ⟨true, false, false, false⟩) [0xC3, 0x00, 0x01])
      (fun t => t.f == ⟨true, false, false, false⟩ && t.pc == 0xC001 && t.cycles == 1 &&
        t.events == [.unknownOpcode 0xC3 0xC000]) = true := by decide

/-- V91: `HALT (class A)` (R217, R270). -/
theorem test_halt :
    nextHas (poke (load (bench.setPair .hl 0xC100) [0x76]) 0xC100 0x5A)
      (fun t => t.pc == 0xC001 && t.cycles == 1 && t.events == [.unknownOpcode 0x76 0xC000]) = true := by decide

/-- V92: `PREFIX CB (class A)` (R229, R270). -/
theorem test_prefixCb :
    nextHas (load (bench.setReg8 .a 0xF0) [0xCB, 0x37])
      (fun t => t.pc == 0xC001 && t.cycles == 1 && t.events == [.unknownOpcode 0xCB 0xC000]) = true := by decide

/-- V93: `RST 0x38 (class A, fill byte 0xFF)` (R226, R270). -/
theorem test_rstTgt :
    nextHas (load bench [0xFF])
      (fun t => t.pc == 0xC001 && t.cycles == 1 && t.events == [.unknownOpcode 0xFF 0xC000]) = true := by decide

/-- V94: `0xDD (class I)` (R230, R270). -/
theorem test_illegalDD :
    nextHas (load bench [0xDD])
      (fun t => t.pc == 0xC001 && t.cycles == 1 && t.events == [.unknownOpcode 0xDD 0xC000]) = true := by decide

/-- V95: `EI (class A)` (R228, R270). -/
theorem test_ei :
    nextHas (load bench [0xFB])
      (fun t => t.pc == 0xC001 && t.cycles == 1 && t.events == [.unknownOpcode 0xFB 0xC000]) = true := by decide

/-- V96: `CP A,imm8 (class U)` is refused (R250, R273). -/
theorem test_cpAImm8 :
    refusesWith (load (bench.setReg8 .a 0x10) [0xFE, 0x10]) 0xFE = true := by decide

/-- V97: `INC BC (class U)` is refused (R241, R273). -/
theorem test_incR16 :
    refusesWith (load (bench.setPair .bc 0x00FF) [0x03]) 0x03 = true := by decide

/-- V98: `LD [a16],A (class U)` is refused (R253, R273). -/
theorem test_ldA16A :
    refusesWith (load (bench.setReg8 .a 0x33) [0xEA, 0x00, 0xC1]) 0xEA = true := by decide

/-! ## The bus and the interface: spec/95_test_vectors.md, sections 1 and 3 -/

/-- T1a: the AF view (R16). -/
theorem test_af_view :
    ((bench.setReg8 .a 0xEF).setFlags ⟨true, false, true, false⟩).getPair .af = 0xEFA0 := by decide

/-- T2: `set AF(0x1234)` then `get AF` (R17). -/
theorem test_set_af : (bench.setPair .af 0x1234).getPair .af = 0x1230 := by decide

/-- T1a: the BC, DE and HL views are the first register over the second (R13). -/
theorem test_pair_views :
    ((bench.setReg8 .b 0x01).setReg8 .c 0x23).getPair .bc = 0x0123 ∧
    ((bench.setReg8 .d 0x45).setReg8 .e 0x67).getPair .de = 0x4567 ∧
    ((bench.setReg8 .h 0x89).setReg8 .l 0xAB).getPair .hl = 0x89AB := by decide

/-- R19: a setter stores `v & 0xFF`. -/
theorem test_setReg8_masks : (bench.setReg8 .d 0x1A5).r.d = 0xA5 := by decide

/-- B3 to B6: the working-RAM window, its echo, and three bank switches (R54, R55, R58). -/
theorem test_wram_banks :
    isNext (runActions [.move (.write 0xF010 0x33), .move (.mapWramBank 2), .move (.write 0xD010 0x44)] bench)
      (fun t => t.bus.byteAt 0xF010 == 0x44 && Memory.read 0x1010 t.bus.wram == 0x33 && Memory.read 0x2010 t.bus.wram == 0x44 &&
        isNext (applyMove (.mapWramBank 1) t) fun u => u.bus.byteAt 0xD010 == 0x33 && u.bus.byteAt 0xF010 == 0x33) = true := by
  decide

/-- B9: the unusable range (R52, R60, R61). -/
theorem test_unusable_range :
    isNext (runActions [.move (.write 0xFEA0 0x77), .move (.read 0xFEA0), .move (.read 0xFEFF)] bench)
      (fun t => t.cycles == 3 && t.bus == bench.bus && t.events ==
        [.unmappedAccess .write 0xFEA0, .unmappedAccess .read 0xFEA0, .unmappedAccess .read 0xFEFF]) = true := by
  decide

/-- B10 and B12: the neighbours of the unusable range, and 0xFFFF, are storage (R51, R57). -/
theorem test_neighbours_are_storage :
    isNext (runActions [.move (.write 0xFE9F 0x12), .move (.write 0xFF00 0x34), .move (.write 0xFFFF 0x1F)] bench)
      (fun t => t.bus.byteAt 0xFE9F == 0x12 && t.bus.byteAt 0xFF00 == 0x34 && t.bus.hram == [(0x7F, 0x1F)] &&
        t.events == []) = true := by
  decide

/-- B13: 0xDDFF has an echo, 0xDE00 has none (R54). -/
theorem test_end_of_echo :
    (poke bench 0xFDFF 0x21).bus.byteAt 0xDDFF = 0x21 ∧ (poke bench 0xDE00 0x22).bus.byteAt 0xFE00 = 0 := by decide

/-- Writing what an unlisted byte reads as takes its entry out. -/
theorem test_canonical_form : (poke (poke bench 0xC100 5) 0xC100 0).bus = bench.bus := by decide

/-- R272: the bounds of a ROM image, from below. -/
theorem test_construct_refuses_short :
    construct (List.replicate 32767 0) Setup.default = .fault (.romSizeOutOfRange 32767) := by
  have h : (List.replicate 32767 (0 : Byte)).length = 32767 := List.length_replicate
  rw [construct, h, if_pos (by omega)]

/-! ## Witnesses: for every obligation with hypotheses, inputs that meet all of them together -/

/-- `LD HL,0x1234` at PC. -/
def atLdHl : State := load bench [0x21, 0x34, 0x12]

theorem witness_DecodeOfEncodeIsIdentity : (Instr.ldR16Imm16 .hl 0x1234).wellFormed = true := by decide

theorem witness_EncodeOfDecodeIsIdentity : decode [0x21, 0x34, 0x12, 0x99] = .ok (.ldR16Imm16 .hl 0x1234, [0x99]) := by decide

theorem witness_StrategySearchAgreesWithTable :
    (∃ row, rowOf 0x86 = some row ∧ row.cls = .present) ∧ (∃ row, rowOf 0x76 = some row ∧ row.cls = .absent) ∧
    (∃ row, rowOf 0xDD = some row ∧ row.cls = .noInstruction) ∧ ∃ row, rowOf 0xFE = some row ∧ row.cls = .unnamed :=
  ⟨⟨_, rfl, rfl⟩, ⟨_, rfl, rfl⟩, ⟨_, rfl, rfl⟩, ⟨_, rfl, rfl⟩⟩

theorem atLdHl_decodes :
    decode [atLdHl.bus.byteAt atLdHl.pc, atLdHl.bus.byteAt (atLdHl.pc + 1), atLdHl.bus.byteAt (atLdHl.pc + 2)] =
      .ok (.ldR16Imm16 .hl 0x1234, []) := by decide

theorem atLdHl_steps : ∃ t, step atLdHl = .next t := exists_next (by decide)

theorem witness_StepRunsTheDecodedInstruction :
    decode [atLdHl.bus.byteAt atLdHl.pc, atLdHl.bus.byteAt (atLdHl.pc + 1), atLdHl.bus.byteAt (atLdHl.pc + 2)] =
      .ok (.ldR16Imm16 .hl 0x1234, []) := atLdHl_decodes

theorem witness_ProgramCounterMovesByFetchingAlone :
    decode [atLdHl.bus.byteAt atLdHl.pc, atLdHl.bus.byteAt (atLdHl.pc + 1), atLdHl.bus.byteAt (atLdHl.pc + 2)] =
      .ok (.ldR16Imm16 .hl 0x1234, []) ∧ ∃ t, step atLdHl = .next t := ⟨atLdHl_decodes, atLdHl_steps⟩

theorem witness_StepReturnsTheTabledCycles :
    decode [atLdHl.bus.byteAt atLdHl.pc, atLdHl.bus.byteAt (atLdHl.pc + 1), atLdHl.bus.byteAt (atLdHl.pc + 2)] =
      .ok (.ldR16Imm16 .hl 0x1234, []) ∧ ∃ t, step atLdHl = .next t := ⟨atLdHl_decodes, atLdHl_steps⟩

theorem witness_StepEndsInOneOfThreeWays :
    (∃ row, rowOf (atLdHl.bus.byteAt atLdHl.pc) = some row ∧ row.cls = .present) ∧
    (∃ row, rowOf ((load bench [0xCB]).bus.byteAt 0xC000) = some row ∧ row.cls = .absent) ∧
    (∃ row, rowOf ((load bench [0xFD]).bus.byteAt 0xC000) = some row ∧ row.cls = .noInstruction) ∧
    ∃ row, rowOf ((load bench [0xFE]).bus.byteAt 0xC000) = some row ∧ row.cls = .unnamed :=
  ⟨⟨_, rfl, rfl⟩, ⟨_, rfl, rfl⟩, ⟨_, rfl, rfl⟩, ⟨_, rfl, rfl⟩⟩

theorem witness_StepKeepsTheInvariant : atLdHl.Inv ∧ ∃ t, step atLdHl = .next t := ⟨by decide, atLdHl_steps⟩

theorem witness_SessionsKeepTheInvariant :
    atLdHl.Inv ∧ ∃ t, runActions [.step, .move (.mapWramBank 7), .move (.write 0xD000 0x55), .step] atLdHl = .next t :=
  ⟨by decide, exists_next (by decide)⟩

theorem witness_StepAddsOnlyTheNamedConditions :
    (∃ t, step (bench.setPc 0xFEA0) = .next t) ∧ ∃ t, step (load bench [0xCB]) = .next t :=
  ⟨exists_next (by decide), exists_next (by decide)⟩

theorem witness_NoStepSwitchesABank : ∃ t, step (load (bench.setPair .hl 0x2000) [0x36, 0x05]) = .next t :=
  exists_next (by decide)

/-- `PUSH BC` writes 0xDFEF and 0xDFEE; 0xFDFF shows neither byte. -/
theorem witness_OnlyStoredBytesChange :
    bench.Inv ∧ (∃ t, exec (.pushR16stk .bc) bench = .next t) ∧
    ∀ a ∈ storeAddresses bench (.pushR16stk .bc), ¬ sameByte bench.bus a 0xFDFF := by
  refine ⟨by decide, ⟨_, rfl⟩, ?_⟩
  intro a ha
  simp only [storeAddresses, List.mem_cons, List.not_mem_nil, or_false] at ha
  rcases ha with rfl | rfl <;> exact fun h => absurd h.1 (by decide)

theorem witness_OnlyTabledFlagsChange :
    (∃ t, exec (.ldR8Imm8 .b 0x12) bench = .next t) ∧ (flagsWritten (.ldR8Imm8 .b 0x12)).z = false ∧
    (flagsWritten (.ldR8Imm8 .b 0x12)).n = false ∧ (flagsWritten (.ldR8Imm8 .b 0x12)).h = false ∧
    (∃ t, exec (.incR8 .b) bench = .next t) ∧ (flagsWritten (.incR8 .b)).c = false :=
  ⟨⟨_, rfl⟩, rfl, rfl, rfl, ⟨_, rfl⟩, rfl⟩

theorem witness_OnlyDestinationRegistersChange :
    (∃ t, exec (.ldAR16mem .hlInc) bench = .next t) ∧ R8.b ≠ .mHL ∧ R8.b ∉ regsWritten (.ldAR16mem .hlInc) ∧
    writesSp (.ldAR16mem .hlInc) = false :=
  ⟨⟨_, rfl⟩, by decide, by decide, rfl⟩

/-- An instruction that writes all four flags, and one that writes three. -/
theorem witness_OtherInstructionsIgnoreFlags :
    readsFlags (.addAR8 .mHL) = false ∧ (∃ t, exec (.addAR8 .mHL) bench = .next t) ∧
    flagsWritten (.addAR8 .mHL) = ⟨true, true, true, true⟩ ∧
    readsFlags (.incR8 .mHL) = false ∧ (∃ t, exec (.incR8 .mHL) bench = .next t) ∧
    flagsWritten (.incR8 .mHL) = ⟨true, true, true, false⟩ :=
  ⟨rfl, ⟨_, rfl⟩, rfl, rfl, ⟨_, rfl⟩, rfl⟩

theorem witness_ResultsIgnoreCyclesAndEvents :
    sameCore atLdHl ((atLdHl.setCycles 9).emit (.unmappedAccess .read 0xFEA0)) ∧ (∃ t, step atLdHl = .next t) ∧
    sameCore (load bench [0xFE]) ((load bench [0xFE]).setCycles 9) ∧ step (load bench [0xFE]) = .refused (.notSpecified 0xFE) :=
  ⟨⟨rfl, rfl, rfl, rfl, rfl⟩, atLdHl_steps, ⟨rfl, rfl, rfl, rfl, rfl⟩, rfl⟩

theorem witness_CyclesBetweenStepsAreLost : ∃ t, step atLdHl = .next t := atLdHl_steps

/-- `LD [HL],B` at 0xC000 with HL 0xC001 and B the opcode of `INC A`. -/
theorem witness_StoredByteIsFetchedNext :
    ((load ((bench.setReg8 .b 0x3C).setPair .hl 0xC001) [0x70])).Inv ∧ R8.b ≠ .mHL ∧
    (load ((bench.setReg8 .b 0x3C).setPair .hl 0xC001) [0x70]).bus.byteAt 0xC000 = 0b01110#5 ++ R8.b.code ∧
    (load ((bench.setReg8 .b 0x3C).setPair .hl 0xC001) [0x70]).r.hl = 0xC000 + 1 ∧
    (load ((bench.setReg8 .b 0x3C).setPair .hl 0xC001) [0x70]).bus.map 0xC001 ≠ none ∧
    decode [operand (load ((bench.setReg8 .b 0x3C).setPair .hl 0xC001) [0x70]) .b] = .ok (.incR8 .a, []) := by
  refine ⟨by decide, by decide, by decide, by decide, by decide, by decide⟩

/-- The clauses of R51's table at the first and the last address of each: no address falls under two of them. -/
theorem witness_MapIsTheAddressTable :
    ([(0x0000, some (.rom, 0)), (0x3FFF, some (.rom, 0x3FFF)), (0x4000, some (.rom, 0x4000)), (0x7FFF, some (.rom, 0x7FFF)),
      (0x8000, some (.vram, 0)), (0x9FFF, some (.vram, 0x1FFF)), (0xA000, some (.eram, 0)), (0xBFFF, some (.eram, 0x1FFF)),
      (0xC000, some (.wram, 0)), (0xCFFF, some (.wram, 0xFFF)), (0xD000, some (.wram, 0x1000)), (0xDFFF, some (.wram, 0x1FFF)),
      (0xE000, some (.wram, 0)), (0xEFFF, some (.wram, 0xFFF)), (0xF000, some (.wram, 0x1000)), (0xFDFF, some (.wram, 0x1DFF)),
      (0xFE00, some (.oam, 0)), (0xFE9F, some (.oam, 0x9F)), (0xFEA0, none), (0xFEFF, none),
      (0xFF00, some (.io, 0)), (0xFF7F, some (.io, 0x7F)), (0xFF80, some (.hram, 0)), (0xFFFF, some (.hram, 0x7F))] :
      List (Word × Slot)).all (fun p => bench.bus.map p.1 == p.2) = true := by decide

/-- The aliases of R54 at the last offset of each, the bank clauses on bank 0. -/
theorem witness_EchoWindowsNameTheSameByte :
    bench.bus.map 0xEFFF = bench.bus.map 0xCFFF ∧ bench.bus.map 0xFDFF = bench.bus.map 0xDDFF ∧
    State.reset.bus.romBank = 0 ∧ State.reset.bus.map 0x7FFF = State.reset.bus.map 0x3FFF ∧
    State.reset.bus.wramBank = 0 ∧ State.reset.bus.map 0xDFFF = State.reset.bus.map 0xCFFF ∧
    State.reset.bus.map 0xFDFF = State.reset.bus.map 0xCDFF := by decide

/-- Both clauses of the byte frame: 0xE000 shows the byte of 0xC000, 0xC001 does not; and an unmapped address. -/
theorem witness_BusWriteFollowsItsRule :
    bench.Inv ∧ sameByte bench.bus 0xC000 0xE000 ∧ ¬ sameByte bench.bus 0xC000 0xC001 ∧ bench.bus.map 0xFEA0 = none :=
  ⟨by decide, ⟨by decide, by decide⟩, fun h => absurd h.1 (by decide), by decide⟩

theorem witness_EqualContentsAreEqualData :
    Memory.wf 8 [(1, 5), (7, 9)] = true ∧ (∀ k, k < 8 → Memory.read k [(1, 5), (7, 9)] = Memory.read k [(1, 5), (7, 9)]) :=
  ⟨by decide, fun _ _ => rfl⟩

/-- The least illegal and the greatest legal index of each array, the banks mapped before, and a move that is no switch. -/
theorem witness_BankSwitchRewritesItsWindowOnly :
    (1 < bench.params.romSize / 0x4000 ∧ bench.params.romSize / 0x4000 ≤ 2 ∧
      7 < bench.params.wramBanks ∧ bench.params.wramBanks ≤ 8 ∧
      bench.bus.romBank < bench.params.romSize / 0x4000 ∧ bench.bus.wramBank < bench.params.wramBanks) ∧
    (∀ k, Move.write 0xD000 0x55 ≠ .mapRomBank k ∧ Move.write 0xD000 0x55 ≠ .mapWramBank k) ∧
    ∃ t, applyMove (.write 0xD000 0x55) bench = .next t :=
  ⟨by decide, fun _ => ⟨nofun, nofun⟩, ⟨_, rfl⟩⟩

/-- The ROM window goes to bank 0 and back to bank 1, with a byte written at 0x4010 in between; the working-RAM window to bank 2
and back to bank 1, with a byte written at 0xD010. -/
theorem witness_SwitchingBackShowsTheOldBytes :
    bench.Inv ∧
    (∃ t u v, applyMove (.mapRomBank 0) bench = .next t ∧ applyMove (.write 0x4010 0x44) t = .next u ∧
      applyMove (.mapRomBank bench.bus.romBank) u = .next v) ∧
    ∃ t u v, applyMove (.mapWramBank 2) bench = .next t ∧ applyMove (.write 0xD010 0x44) t = .next u ∧
      applyMove (.mapWramBank bench.bus.wramBank) u = .next v :=
  ⟨by decide, ⟨_, _, _, rfl, rfl, rfl⟩, _, _, _, rfl, rfl, rfl⟩

/-- The ends of every range. -/
theorem witness_UnusableRangeReadsZeroAndDropsWrites :
    (∀ a : Word, a = 0xFEA0 ∨ a = 0xFEFF → 0xFEA0 ≤ a.toNat ∧ a.toNat ≤ 0xFEFF) ∧
    (∀ a : Word, a = 0xFEA0 ∨ a = 0xFEFF →
      0xFEA0 ≤ (bench.setPair .hl a.toNat).r.hl.toNat ∧ (bench.setPair .hl a.toNat).r.hl.toNat ≤ 0xFEFF) ∧
    (∀ a : Word, a = 0xFEA2 ∨ a = 0xFF00 → 0xFEA2 ≤ a.toNat ∧ a.toNat ≤ 0xFF00) ∧
    (∀ a : Word, a = 0xFEA0 ∨ a = 0xFEFE → 0xFEA0 ≤ a.toNat ∧ a.toNat ≤ 0xFEFE) := by
  refine ⟨?_, ?_, ?_, ?_⟩ <;> rintro a (rfl | rfl) <;> decide

/-- The hypothesis of the step half of every `<instruction>Effect` statement, for an instruction of one, two and three bytes. -/
theorem witness_HasEffect :
    bytesAt (load bench [0x80]).bus 0xC000 [0x80] ∧ bytesAt (load bench [0xC6, 0x7F]).bus 0xC000 [0xC6, 0x7F] ∧
    bytesAt atLdHl.bus atLdHl.pc [0x21, 0x34, 0x12] := by
  simp only [bytesAt]
  decide

/-- The forms `LoadRegisterEffect` admits: `[HL]` as destination, `[HL]` as source, neither. -/
theorem witness_LoadRegisterEffect :
    ¬ (R8.mHL = .mHL ∧ R8.b = .mHL) ∧ ¬ (R8.b = .mHL ∧ R8.mHL = .mHL) ∧ ¬ (R8.a = .mHL ∧ R8.a = .mHL) := by decide

theorem witness_ClassAAndIRecordUnknownOpcode :
    (Instr.halt, (0x76 : Byte)) ∈ absentOpcodes ++ noInstructionOpcodes ∧ bytesAt (load bench [0x76]).bus 0xC000 [0x76] := by
  simp only [bytesAt]
  decide

theorem witness_ClassUIsRefused :
    (Instr.incR16 .bc, (0x03 : Byte)) ∈ unnamedOpcodes ∧ (load bench [0x03]).bus.byteAt 0xC000 = 0x03 := by decide

/-- Both forms of the copy: into BC, and into AF. -/
theorem witness_PushThenPopCopiesThePair :
    bench.Inv ∧ bench.bus.map (bench.sp - 1) ≠ none ∧ bench.bus.map (bench.sp - 2) ≠ none ∧
    ∃ t, exec (.pushR16stk .bc) bench = .next t :=
  ⟨by decide, by decide, by decide, ⟨_, rfl⟩⟩

theorem witness_IndexedWriteReadsBack :
    bench.Inv ∧ R8.b ≠ .mHL ∧ R8.c ≠ .b ∧ R8.c ≠ .mHL ∧
    (bench.setPair .hl 0xC123).Inv ∧ (bench.setPair .hl 0xC123).bus.map (bench.setPair .hl 0xC123).r.hl ≠ none := by decide

theorem witness_SnapshotSettersMask : R8.a ≠ .mHL ∧ FlagName.n ≠ .z := by decide

/-- The four boundary sizes of an image. -/
theorem witness_ConstructionFollowsItsRule :
    (∃ image : List Byte, image.length = 32767 ∧ image.length < 32768) ∧
    (∃ image : List Byte, image.length = 8388609 ∧ image.length > 8388608) ∧
    (∃ image : List Byte, image.length = 32768 ∧ 32768 ≤ image.length ∧ image.length ≤ 8388608) ∧
    (∃ image : List Byte, image.length = 8388608 ∧ 32768 ≤ image.length ∧ image.length ≤ 8388608) := by
  have h : ∀ n, (List.replicate n (0 : Byte)).length = n := fun _ => List.length_replicate
  exact ⟨⟨_, h _, by rw [h]; omega⟩, ⟨_, h _, by rw [h]; omega⟩, ⟨_, h _, by rw [h]; omega⟩, ⟨_, h _, by rw [h]; omega⟩⟩

theorem witness_ConstructionMeetsTheInvariant :
    construct (List.replicate 32768 Memory.unlisted) Setup.default = .next State.reset ∧
    (List.replicate 32768 Memory.unlisted).length % 16384 = 0 ∧ 2 ≤ Setup.default.wramBanks ∧
    Setup.default.romxBank < (List.replicate 32768 Memory.unlisted).length / 16384 ∧
    Setup.default.wramxBank < Setup.default.wramBanks ∧
    Memory.wf 8192 Setup.default.vram = true ∧ Memory.wf 8192 Setup.default.eram = true ∧
    Memory.wf (Setup.default.wramBanks * 4096) Setup.default.wram = true ∧ Memory.wf 160 Setup.default.oam = true ∧
    Memory.wf 128 Setup.default.io = true ∧ Memory.wf 128 Setup.default.hram = true := by
  have h : (List.replicate 32768 Memory.unlisted).length = 32768 := List.length_replicate
  rw [h]
  exact ⟨construct_default, rfl, by decide, by decide, by decide, rfl, rfl, rfl, rfl, rfl, rfl⟩

end Sys2Proof.Tests
end

section
/-! SUPPORT. What an instruction and a step do to memory: each shared operation's effect on the bus and the parameters, and
from these that an instruction changes the bus only by one store at each of its `storeAddresses` (R180, R61), in order. -/

namespace Sys2Proof.Machine

open Sys2Proof.Spec

/-! ## Bus and parameters after each shared operation -/

@[simp] theorem State.busRead_snd_bus (s : State) (a : Word) : (s.busRead a).2.bus = s.bus := by rw [State.busRead_eq]
@[simp] theorem State.busRead_snd_params (s : State) (a : Word) : (s.busRead a).2.params = s.params := by
  rw [State.busRead_eq]

@[simp] theorem State.busWrite_bus (s : State) (a : Word) (v : Byte) : (s.busWrite a v).bus = s.bus.store a v := by
  rw [State.busWrite_eq]
@[simp] theorem State.busWrite_params (s : State) (a : Word) (v : Byte) : (s.busWrite a v).params = s.params := by
  rw [State.busWrite_eq]

@[simp] theorem State.r8Write_bus (s : State) (i : R8) (v : Byte) :
    (s.r8Write i v).bus = if i = .mHL then s.bus.store s.r.hl v else s.bus := by
  rw [State.r8Write_eq]; split <;> rfl
@[simp] theorem State.r8Write_params (s : State) (i : R8) (v : Byte) : (s.r8Write i v).params = s.params := by
  rw [State.r8Write_eq]; split <;> rfl

@[simp] theorem State.r16Write_bus (s : State) (p : R16) (v : Word) : (s.r16Write p v).bus = s.bus := by cases p <;> rfl
@[simp] theorem State.r16Write_params (s : State) (p : R16) (v : Word) : (s.r16Write p v).params = s.params := by
  cases p <;> rfl

@[simp] theorem State.r16stkWrite_bus (s : State) (p : R16Stk) (v : Word) : (s.r16stkWrite p v).bus = s.bus := by
  cases p <;> rfl
@[simp] theorem State.r16stkWrite_params (s : State) (p : R16Stk) (v : Word) : (s.r16stkWrite p v).params = s.params := by
  cases p <;> rfl

@[simp] theorem State.r16mem_snd_bus (s : State) (p : R16Mem) : (s.r16mem p).2.bus = s.bus := by rw [State.r16mem_eq]; rfl
@[simp] theorem State.r16mem_snd_params (s : State) (p : R16Mem) : (s.r16mem p).2.params = s.params := by
  rw [State.r16mem_eq]; rfl

@[simp] theorem State.pushByte_bus (s : State) (v : Byte) : (s.pushByte v).bus = s.bus.store (s.sp - 1) v := by
  rw [State.pushByte_eq]
@[simp] theorem State.pushByte_sp (s : State) (v : Byte) : (s.pushByte v).sp = s.sp - 1 := by rw [State.pushByte_eq]
@[simp] theorem State.pushByte_params (s : State) (v : Byte) : (s.pushByte v).params = s.params := by
  rw [State.pushByte_eq]

@[simp] theorem State.popByte_snd_bus (s : State) : s.popByte.2.bus = s.bus := by rw [State.popByte_eq]
@[simp] theorem State.popByte_snd_params (s : State) : s.popByte.2.params = s.params := by rw [State.popByte_eq]

@[simp] theorem State.aluAdd_bus (s : State) (x : Byte) (c : Bool) : (s.aluAdd x c).bus = s.bus := rfl
@[simp] theorem State.aluAdd_params (s : State) (x : Byte) (c : Bool) : (s.aluAdd x c).params = s.params := rfl
@[simp] theorem State.aluSub_bus (s : State) (x : Byte) (c : Bool) : (s.aluSub x c).bus = s.bus := rfl
@[simp] theorem State.aluSub_params (s : State) (x : Byte) (c : Bool) : (s.aluSub x c).params = s.params := rfl
@[simp] theorem State.aluLogic_bus (s : State) (v : Byte) (h : Bool) : (s.aluLogic v h).bus = s.bus := rfl
@[simp] theorem State.aluLogic_params (s : State) (v : Byte) (h : Bool) : (s.aluLogic v h).params = s.params := rfl

@[simp] theorem State.incDecFinish_bus (s : State) (i : R8) (q : Byte × Flags) :
    (s.incDecFinish i q).bus = (s.r8Write i q.1).bus := rfl
@[simp] theorem State.incDecFinish_params (s : State) (i : R8) (q : Byte × Flags) :
    (s.incDecFinish i q).params = s.params := State.r8Write_params s i q.1

/-! ## Stores, one after another -/

/-- `b'` is `b` after one byte has been stored at each of the addresses, in order (R61). -/
inductive Bus.Stored : Bus → List Word → Bus → Prop
  | nil (b : Bus) : Bus.Stored b [] b
  | cons {b b' : Bus} {a : Word} {as : List Word} (v : Byte) (h : Bus.Stored (b.store a v) as b') :
      Bus.Stored b (a :: as) b'

/-- `t` has the parameters of `s`, and its bus is that of `s` after one store at each of the addresses. -/
structure State.StoresAt (s : State) (as : List Word) (t : State) : Prop where
  params : t.params = s.params
  bus : Bus.Stored s.bus as t.bus

theorem State.StoresAt.of_bus_eq {s t : State} (hp : t.params = s.params) (hb : t.bus = s.bus) : s.StoresAt [] t :=
  ⟨hp, hb ▸ .nil _⟩

theorem State.StoresAt.of_store {s t : State} {a : Word} (v : Byte) (hp : t.params = s.params)
    (hb : t.bus = s.bus.store a v) : s.StoresAt [a] t :=
  ⟨hp, hb ▸ .cons v (.nil _)⟩

theorem State.StoresAt.of_two_stores {s t : State} {a a' : Word} (v v' : Byte) (hp : t.params = s.params)
    (hb : t.bus = (s.bus.store a v).store a' v') : s.StoresAt [a, a'] t :=
  ⟨hp, hb ▸ .cons v (.cons v' (.nil _))⟩

/-- An 8-bit destination operand stores at HL, or nowhere (R21). -/
theorem State.StoresAt.of_r8Write {s t : State} {i : R8} (v : Byte) (hp : t.params = s.params)
    (hb : t.bus = (s.r8Write i v).bus) : s.StoresAt (storesAt s i) t := by
  rw [State.r8Write_bus] at hb
  rw [storesAt]
  split
  · next hi => exact .of_store v hp (hb.trans (if_pos hi))
  · next hi => exact .of_bus_eq hp (hb.trans (if_neg hi))

/-- Stores keep the invariant: the banks are kept, and each store stays inside its array (R51, R59). -/
theorem Bus.Stored.inv {s : State} {as : List Word} {b' : Bus} (h : Bus.Stored s.bus as b') (hi : s.Inv) :
    (s.setBus b').Inv := by
  generalize hb : s.bus = b at h
  induction h generalizing s with
  | nil b => subst hb; exact hi
  | @cons b b' a as v _ ih =>
    subst hb
    obtain ⟨hparams, hrom, hwram, -⟩ := id hi
    exact ih (s := s.setBus (s.bus.store a v))
      ⟨hparams, by simpa using hrom, by simpa using hwram, Bus.arraysWf_store hi a v⟩ rfl

theorem State.StoresAt.inv {s t : State} {as : List Word} (h : s.StoresAt as t) (hi : s.Inv) : t.Inv := by
  have hb := h.bus.inv hi
  simpa [State.Inv, h.params] using hb

/-! ## One instruction -/

/-- An instruction of class A or I records `UnknownOpcode` with its opcode, and does nothing else (R210). -/
theorem exec_of_absent_or_noInstruction {i : Instr} (h : i.opClass = .absent ∨ i.opClass = .noInstruction) (s : State) :
    exec i s = .next (s.raiseUnknownOpcode (opcode i)) := by
  rcases h with h | h <;> cases i <;> cases h <;> rfl

/-- An instruction of class U is refused (R240). -/
theorem exec_of_unnamed {i : Instr} (h : i.opClass = .unnamed) (s : State) :
    exec i s = .refused (.notSpecified (opcode i)) := by
  cases i <;> cases h <;> rfl

/-- Only instructions of class P store (R210). -/
theorem storeAddresses_of_absent_or_noInstruction {i : Instr} (h : i.opClass = .absent ∨ i.opClass = .noInstruction)
    (s : State) : storeAddresses s i = [] := by
  rcases h with h | h <;> cases i <;> cases h <;> rfl

/-- `INC` and `DEC` store at HL for the operand `[HL]`, nowhere else (R157, R158). -/
theorem State.incDecFinish_storesAt (s : State) (i : R8) (q : Byte × Flags) :
    s.StoresAt (storesAt s i) ((s.r8Read i).2.incDecFinish i q) :=
  .of_r8Write q.1 (by simp) (by simp)

/-- `LD r8,r8'` stores at HL where `[HL]` is its destination alone (R181). -/
theorem execLdR8R8_storesAt {dst src : R8} {s t : State} (h : execLdR8R8 dst src s = .next t) :
    s.StoresAt (storeAddresses s (.ldR8R8 dst src)) t := by
  simp only [execLdR8R8] at h
  simp only [storeAddresses]
  split at h <;> obtain rfl := Host.Outcome.next.inj h
  · next hboth =>
    rw [if_pos hboth.2]
    exact .of_bus_eq rfl rfl
  · next hboth =>
    split
    · next hsrc =>
      have hdst : dst ≠ .mHL := fun hd => hboth ⟨hd, hsrc⟩
      exact .of_bus_eq (by simp) (by simp [hdst])
    · exact .of_r8Write (s.r8Read src).1 (by simp) (by simp)

/-- `PUSH` stores at the two addresses below SP, the higher first (R201). -/
theorem execPushR16stk_storesAt {p : R16Stk} {s t : State} (h : execPushR16stk p s = .next t) :
    s.StoresAt (storeAddresses s (.pushR16stk p)) t := by
  obtain rfl := Host.Outcome.next.inj h
  have hsp : s.sp - 2 = s.sp - 1 - 1 := (BitVec.sub_sub s.sp 1 1).symm
  rw [storeAddresses, hsp]
  exact .of_two_stores (hiByte (s.r16stkRead p)) (loByte (s.r16stkRead p)) (by simp) (by simp)

/-- An instruction of class P stores at its `storeAddresses`: by name the seven forms that can store; the others leave the bus. -/
theorem exec_storesAt_of_present {i : Instr} {s t : State} (hc : i.opClass = .present) (h : exec i s = .next t) :
    s.StoresAt (storeAddresses s i) t := by
  cases i <;> cases hc
  case incR8 r | decR8 r =>
    obtain rfl := Host.Outcome.next.inj h
    exact State.incDecFinish_storesAt s r _
  case ldR8Imm8 r n =>
    obtain rfl := Host.Outcome.next.inj h
    exact .of_r8Write n (by simp) rfl
  case ldR8R8 dst src => exact execLdR8R8_storesAt h
  case ldR16memA _ | ldhA8A _ =>
    obtain rfl := Host.Outcome.next.inj h
    exact .of_store s.r.a (by simp) (by simp)
  case pushR16stk p => exact execPushR16stk_storesAt h
  all_goals
    obtain rfl := Host.Outcome.next.inj h
    exact .of_bus_eq (by simp) (by simp)

/-- An instruction changes memory only by one store at each of its `storeAddresses` (R61, R180). -/
theorem exec_storesAt {i : Instr} {s t : State} (h : exec i s = .next t) : s.StoresAt (storeAddresses s i) t := by
  have unknown (hc : i.opClass = .absent ∨ i.opClass = .noInstruction) : s.StoresAt (storeAddresses s i) t := by
    rw [exec_of_absent_or_noInstruction hc] at h
    obtain rfl := Host.Outcome.next.inj h
    rw [storeAddresses_of_absent_or_noInstruction hc]
    exact .of_bus_eq rfl rfl
  cases hc : i.opClass with
  | present => exact exec_storesAt_of_present hc h
  | absent => exact unknown (.inl hc)
  | noInstruction => exact unknown (.inr hc)
  | unnamed => rw [exec_of_unnamed hc] at h; cases h

/-! ## One step -/

/-- Fetching an instruction changes PC, `cycles` and the record of conditions alone (R62, R127). -/
theorem State.fetchInstr_frame {s s1 : State} {i : Instr} (h : s.fetchInstr = some (i, s1)) :
    ∃ pc n es, s1 = { s with pc := pc, cycles := n, events := s.events ++ es } := by
  obtain ⟨row, hrow⟩ := exists_rowOf (s.bus.byteAt s.pc)
  rcases rowOf_length _ _ hrow with hl | hl | hl
  · rw [State.fetchInstr_one hrow hl] at h
    cases h
    exact ⟨_, _, _, rfl⟩
  · rw [State.fetchInstr_two hrow hl] at h
    cases h
    exact ⟨_, _, _, by rw [List.append_assoc]⟩
  · rw [State.fetchInstr_three hrow hl] at h
    cases h
    exact ⟨_, _, _, by rw [List.append_assoc, List.append_assoc]⟩

/-- A step that completes is an instruction run in a state that differs from the first in PC, `cycles` and recorded
conditions alone (R120). -/
theorem step_next {s t : State} (h : step s = .next t) :
    ∃ i pc n es, exec i { s with pc := pc, cycles := n, events := s.events ++ es } = .next t := by
  rw [step] at h
  split at h
  · cases h
  · next i s1 hf =>
    obtain ⟨pc, n, es, rfl⟩ := State.fetchInstr_frame hf
    exact ⟨i, pc, n, es, h⟩

/-- A step changes memory by stores alone. -/
theorem step_storesAt {s t : State} (h : step s = .next t) : ∃ as, s.StoresAt as t := by
  obtain ⟨i, pc, n, es, hexec⟩ := step_next h
  obtain ⟨hparams, hbus⟩ := exec_storesAt hexec
  exact ⟨_, hparams, hbus⟩

/-! ## The invariant -/

/-- What a construction that succeeds gives (R301, R272): the image size inside its bounds, the parameters and the bus. -/
theorem construct_next {image : List Byte} {u : Setup} {s : State} (h : construct image u = .next s) :
    (32768 ≤ image.length ∧ image.length ≤ 8388608) ∧
    s.params = { romSize := image.length, wramBanks := u.wramBanks, icycAddSp := u.icycAddSp, icycLdHlSp := u.icycLdHlSp } ∧
    s.bus =
      { rom := Memory.ofBytes image, vram := u.vram, eram := u.eram, wram := u.wram, oam := u.oam, io := u.io,
        hram := u.hram, romBank := u.romxBank, wramBank := u.wramxBank } := by
  rw [construct] at h
  split at h
  · cases h
  · next hsize =>
    obtain rfl := Host.Outcome.next.inj h
    exact ⟨by omega, rfl, rfl⟩

/-- Settles O9: a step changes memory by stores alone, and stores keep the invariant. -/
theorem stepKeepsTheInvariant : Obligations.StepKeepsTheInvariant := by
  intro s t hi h
  obtain ⟨as, hst⟩ := step_storesAt h
  exact hst.inv hi

/-- Settles O57: the image is canonical in an array of its own length (`Memory.wf_ofBytes`), all else is a premise. -/
theorem constructionMeetsTheInvariant : Obligations.ConstructionMeetsTheInvariant := by
  intro image u s h hmod hbanks hromx hwramx hvram heram hwram hoam hio hhram
  obtain ⟨⟨hmin, hmax⟩, hparams, hbus⟩ := construct_next h
  have harrays (arr : ArrayId) : Memory.wf (ArrayId.size s.params arr) (s.bus.array arr) = true := by
    rw [hparams, hbus]
    cases arr with
    | rom => exact Memory.wf_ofBytes image
    | vram => exact hvram
    | eram => exact heram
    | wram => exact hwram
    | oam => exact hoam
    | io => exact hio
    | hram => exact hhram
  refine ⟨?_, ?_, ?_, Bus.arraysWf_of_array harrays⟩
  · rw [hparams]; exact ⟨hmin, hmax, hmod, hbanks⟩
  · rw [hparams, hbus]; exact hromx
  · rw [hparams, hbus]; exact hwramx

/-- Settles O10: the parameters and banks by evaluation, the arrays by `reset_arraysWf`. -/
theorem resetMeetsTheInvariant : Obligations.ResetMeetsTheInvariant :=
  ⟨by decide, by decide, by decide, reset_arraysWf⟩

end Sys2Proof.Machine
end

section
/-! SUPPORT. The AF view: what it reads and what a write to it sets. -/

namespace Sys2Proof.Machine

open Sys2Proof.Spec

/-! ## The AF view (R16, R17) -/

/-- The flag byte as a number: the four flags in bits 7 to 4 (R16). -/
theorem Flags.pack_toNat (f : Flags) :
    f.pack.toNat = f.z.toNat * 128 + f.n.toNat * 64 + f.h.toNat * 32 + f.c.toNat * 16 := by
  obtain ⟨z, n, h, c⟩ := f
  cases z <;> cases n <;> cases h <;> cases c <;> rfl

/-- Unpacking a flag byte and packing it again clears its low nibble (R17). -/
theorem Flags.pack_unpack : ∀ v : Byte, (Flags.unpack v).pack = v &&& 0xF0 := by decide

/-- The mask of the AF view leaves the high byte alone (R17). -/
theorem word_and_0xFFF0 (v : Word) : v &&& 0xFFF0 = wordOf (hiByte v) (loByte v &&& 0xF0) := by
  have hmask : (0xFFF0 : Word) = wordOf (BitVec.allOnes 8) 0xF0 := rfl
  calc v &&& 0xFFF0 = wordOf (hiByte v) (loByte v) &&& wordOf (BitVec.allOnes 8) 0xF0 := by rw [wordOf_hiByte_loByte, hmask]
    _ = wordOf (hiByte v &&& BitVec.allOnes 8) (loByte v &&& 0xF0) := BitVec.and_append
    _ = wordOf (hiByte v) (loByte v &&& 0xF0) := by rw [BitVec.and_allOnes]

/-- After a write to AF, AF reads the value with its low nibble cleared (R17). -/
theorem State.af_setAf (s : State) (v : Word) : (s.setAf v).af = v &&& 0xFFF0 := by
  rw [word_and_0xFFF0, ← Flags.pack_unpack]; rfl

/-- Bits 7 to 4 of a word are bits 7 to 4 of its low byte (R17). -/
theorem Flags.unpack_loByte (v : Word) :
    Flags.unpack (loByte v) = { z := v.getLsbD 7, n := v.getLsbD 6, h := v.getLsbD 5, c := v.getLsbD 4 } := by
  simp [Flags.unpack, loByte]

/-- Settles O52: AF is a word of two bytes, the flag byte a sum of four bits. -/
theorem afReadPacksTheFlags : Obligations.AfReadPacksTheFlags := by
  intro s
  have haf : s.af.toNat = s.r.a.toNat * 256 + s.f.pack.toNat := wordOf_toNat s.r.a s.f.pack
  rw [haf, Flags.pack_toNat]
  simp only [Nat.add_assoc]

/-- Settles O53: the flags are unpacked from the low byte, whose bits are those of the word. -/
theorem afWriteUnpacksTheFlags : Obligations.AfWriteUnpacksTheFlags := by
  intro s v
  refine ⟨?_, s.af_setAf v⟩
  rw [← Flags.unpack_loByte]
  rfl

end Sys2Proof.Machine
end

section
/-! SUPPORT. The unusable range, the 8-bit operands and the snapshot interface, against the spec's own rules for them. -/

namespace Sys2Proof.Machine

open Sys2Proof.Spec

/-! ## The unusable range (R52) -/

/-- A slot is unmapped in the unusable range alone, whatever banks are mapped (R52). -/
theorem Bus.map_eq_none_iff (b : Bus) (a : Word) : b.map a = none ↔ 0xFEA0 ≤ a.toNat ∧ a.toNat ≤ 0xFEFF := by
  have hb := regionOf_bounds a
  simp only [Bus.map, Region.slot]
  generalize regionOf a = g at hb
  cases g <;> simp only [Region.first, Region.size] at hb <;> simp [Region.array] <;> omega

/-- The condition an access records, by the address (R52, R271). -/
theorem Bus.accessEvents_eq (b : Bus) (k : AccessKind) (a : Word) : b.accessEvents k a = unmappedEvent k a := by
  simp [Bus.accessEvents, unmappedEvent, Bus.map_eq_none_iff]

/-! ## 8-bit operands (R20, R21) -/

/-- A register operand reads the registers alone (R20). -/
theorem operand_congr {s t : State} (h : t.r = s.r) {j : R8} (hj : j ≠ .mHL) : operand t j = operand s j := by
  cases j
  case mHL => exact absurd rfl hj
  all_goals simp only [operand, h]

/-- The registers after one is written: that one holds the value, the others what they held (R21, R27). -/
theorem operand_of_put {s t : State} {i : R8} {v : Byte} (h : t.r = s.r.put v i) {j : R8} (hj : j ≠ .mHL) :
    operand t j = if j = i then v else operand s j := by
  cases j
  case mHL => exact absurd rfl hj
  all_goals cases i <;> simp only [operand, h] <;> rfl

theorem State.r8Read_fst (s : State) (i : R8) : (s.r8Read i).1 = operand s i := by
  rw [State.r8Read_eq]; cases i <;> rfl

theorem State.r8Read_snd (s : State) (i : R8) : (s.r8Read i).2 = operandRead i s := by
  rw [State.r8Read_eq, Bus.accessEvents_eq]; rfl

theorem State.r8Write_register (s : State) {i : R8} (hi : i ≠ .mHL) (v : Byte) :
    s.r8Write i v = { s with r := s.r.put v i } := by
  rw [State.r8Write_eq, if_neg hi]

theorem State.r8Write_eq_operandWrite (s : State) (i : R8) (v : Byte) : s.r8Write i v = operandWrite i v s := by
  rw [State.r8Write_eq, Bus.accessEvents_eq]; cases i <;> rfl

/-- The byte at HL reads back what was written to it, where it is mapped (R21, R61). -/
theorem operand_mHL_busWrite {s : State} (hinv : s.Inv) (hmap : s.bus.map s.r.hl ≠ none) (v : Byte) :
    operand (s.busWrite s.r.hl v) .mHL = v := by
  obtain ⟨-, -, -, hwf⟩ := hinv
  have hbyte : operand (s.busWrite s.r.hl v) .mHL = (s.bus.store s.r.hl v).byteAt s.r.hl := by
    rw [State.busWrite_eq]; rfl
  rw [hbyte, Bus.byteAt_store hwf, if_pos ⟨rfl, hmap⟩]

/-- Settles O54: a register operand by `operand_of_put`, index 6 by the rule of the bus write at HL. -/
theorem indexedWriteReadsBack : Obligations.IndexedWriteReadsBack := by
  intro s i v hinv
  refine ⟨fun hi => ?_, ?_⟩
  · have hr : (s.r8Write i v).r = s.r.put v i := by rw [s.r8Write_register hi]
    refine ⟨by rw [hr]; exact s.r8Write_register hi v, ?_, fun j hji hj => ?_⟩
    · rw [State.r8Read_fst, operand_of_put hr hi, if_pos rfl]
    · rw [operand_of_put hr hj, if_neg hji]
  · rintro rfl
    have hw : s.r8Write .mHL v = s.busWrite s.r.hl v := rfl
    rw [hw]
    refine ⟨rfl, by rw [State.busWrite_eq], by rw [State.busWrite_eq], fun hmap => ?_⟩
    rw [State.r8Read_fst, operand_mHL_busWrite hinv hmap]

/-! ## 16-bit views (R13 to R17, R288) -/

theorem State.getPair_eq_viewValue (s : State) (p : Pair) : s.getPair p = viewValue s p := by cases p <;> rfl

theorem State.setPair_eq_viewWrite (s : State) (p : Pair) (v : Nat) :
    s.setPair p v = viewWrite p (BitVec.ofNat 16 v) s := by
  cases p
  case af => exact congrArg (State.setFlags _) (Flags.unpack_loByte _)
  all_goals rfl

/-- A 16-bit view reads back what was written, AF with its low nibble cleared (R13, R17). -/
theorem State.getPair_setPair (s : State) (p : Pair) (v : Nat) :
    (s.setPair p v).getPair p = if p = .af then BitVec.ofNat 16 v &&& 0xFFF0 else BitVec.ofNat 16 v := by
  cases p with
  | af => exact s.af_setAf _
  | bc => exact Regs.bc_setBc s.r _
  | de => exact Regs.de_setDe s.r _
  | hl => exact Regs.hl_setHl s.r _
  | sp | pc => rfl

/-- Clearing the low nibble, as a number (R17). -/
theorem word_and_0xFFF0_toNat (v : Word) : (v &&& 0xFFF0).toNat = v.toNat / 16 * 16 := by
  have hlow : ∀ b : Byte, (b &&& 0xF0).toNat = b.toNat / 16 * 16 := by decide
  rw [word_and_0xFFF0, wordOf_toNat, hlow, hiByte_toNat, loByte_toNat]
  omega

/-- A flag reads back what was set, the other flags what they were (R12). -/
theorem State.getFlag_flagWrite (s : State) (g g' : FlagName) (v : Bool) :
    (flagWrite g v s).getFlag g' = if g' = g then v else s.getFlag g' := by
  cases g <;> cases g' <;> rfl

/-- Settles O55: every setter and getter is the spec's operand, view or flag of its name. -/
theorem snapshotSettersMask : Obligations.SnapshotSettersMask := by
  refine ⟨fun s i v => ⟨?_, fun hi => ?_⟩, fun s p v => ⟨?_, ?_⟩, fun s g v => ⟨?_, ?_, fun g' hg => ?_⟩,
    fun s i => ⟨?_, s.r8Read_fst i, fun hi => ?_⟩, fun s p => ⟨rfl, s.getPair_eq_viewValue p⟩,
    fun s g => ⟨rfl, by cases g <;> rfl⟩⟩
  · rw [← State.r8Write_eq_operandWrite]; rfl
  · rw [← State.r8Write_eq_operandWrite, s.r8Write_register hi, operand_of_put (i := i) rfl hi, if_pos rfl,
      BitVec.toNat_ofNat]
  · rw [← State.setPair_eq_viewWrite]; rfl
  · rw [← State.setPair_eq_viewWrite, State.getPair_setPair, apply_ite BitVec.toNat, word_and_0xFFF0_toNat,
      BitVec.toNat_ofNat]
  · cases g <;> rfl
  · rw [State.getFlag_flagWrite, if_pos rfl]
  · rw [State.getFlag_flagWrite, if_neg hg]
  · exact congrArg Host.Outcome.next (s.r8Read_snd i)
  · refine congrArg Host.Outcome.next ?_
    rw [State.r8Read_snd, operandRead, if_neg hi]

end Sys2Proof.Machine
end

section
/-! SUPPORT. The canonical form of an array is unique (R30; log 3). -/

namespace Sys2Proof.Machine

@[simp] theorem Memory.read_cons_self (k : Nat) (v : Byte) (m : Memory) : Memory.read k ((k, v) :: m) = v := if_pos rfl

theorem Memory.read_cons_of_ne {j k : Nat} (h : j ≠ k) (v : Byte) (m : Memory) :
    Memory.read k ((j, v) :: m) = Memory.read k m := if_neg h

/-- In canonical form the first entry is the least offset that reads as anything else than an unlisted byte. -/
theorem Memory.head_le {lo size j k : Nat} {v : Byte} {m : Memory} (hm : Memory.wfFrom lo size ((j, v) :: m) = true)
    (hk : Memory.read k ((j, v) :: m) ≠ Memory.unlisted) : j ≤ k := by
  obtain ⟨-, hj, hv, hrest⟩ := Memory.wfFrom_cons.mp hm
  by_contra hlt
  exact hk (Memory.read_of_lt (Memory.wfFrom_cons.mpr ⟨le_rfl, hj, hv, hrest⟩) (by omega))

/-- Arrays in canonical form that read alike are the same list: both begin with the least listed offset and its byte. -/
theorem Memory.eq_of_read_eq {lo lo' size : Nat} {m m' : Memory} (hm : Memory.wfFrom lo size m = true)
    (hm' : Memory.wfFrom lo' size m' = true) (h : ∀ k, Memory.read k m = Memory.read k m') : m = m' := by
  induction m generalizing lo lo' m' with
  | nil =>
    cases m' with
    | nil => rfl
    | cons c m' =>
      obtain ⟨k, v⟩ := c
      obtain ⟨-, -, hv, -⟩ := Memory.wfFrom_cons.mp hm'
      exact absurd (h k).symm (by simpa using hv)
  | cons c m ih =>
    obtain ⟨k, v⟩ := c
    obtain ⟨-, -, hv, hrest⟩ := Memory.wfFrom_cons.mp hm
    cases m' with
    | nil => exact absurd (h k) (by simpa using hv)
    | cons c' m' =>
      obtain ⟨k', v'⟩ := c'
      obtain ⟨-, -, hv', hrest'⟩ := Memory.wfFrom_cons.mp hm'
      have hle : k' ≤ k := Memory.head_le hm' (by rw [← h k]; simpa using hv)
      have hge : k ≤ k' := Memory.head_le hm (by rw [h k']; simpa using hv')
      obtain rfl : k = k' := le_antisymm hge hle
      obtain rfl : v = v' := by simpa using h k
      have htail : ∀ j, Memory.read j m = Memory.read j m' := by
        intro j
        by_cases hj : k = j
        · subst hj
          rw [Memory.read_of_lt hrest (Nat.lt_succ_self k), Memory.read_of_lt hrest' (Nat.lt_succ_self k)]
        · simpa only [Memory.read_cons_of_ne hj] using h j
      rw [ih hrest hrest' htail]

/-- Settles O28: from `size` on both read as unlisted (`Memory.read_of_ge`), so they read alike everywhere. -/
theorem equalContentsAreEqualData : Obligations.EqualContentsAreEqualData := by
  intro size m m' hm hm' h
  refine Memory.eq_of_read_eq hm hm' fun k => ?_
  rcases Nat.lt_or_ge k size with hk | hk
  · exact h k hk
  · rw [Memory.read_of_ge hm hk, Memory.read_of_ge hm' hk]

end Sys2Proof.Machine
end

section
/-! SUPPORT. What each shared operation leaves of registers, flags, SP and PC. -/

namespace Sys2Proof.Machine

open Sys2Proof.Spec

/-! ## Registers, flags, SP and PC after each shared operation -/

@[simp] theorem State.busRead_snd_core (s : State) (a : Word) :
    (s.busRead a).2.r = s.r ∧ (s.busRead a).2.f = s.f ∧ (s.busRead a).2.sp = s.sp ∧ (s.busRead a).2.pc = s.pc := by
  rw [State.busRead_eq]; exact ⟨rfl, rfl, rfl, rfl⟩

@[simp] theorem State.busWrite_core (s : State) (a : Word) (v : Byte) :
    (s.busWrite a v).r = s.r ∧ (s.busWrite a v).f = s.f ∧ (s.busWrite a v).sp = s.sp ∧ (s.busWrite a v).pc = s.pc := by
  rw [State.busWrite_eq]; exact ⟨rfl, rfl, rfl, rfl⟩

@[simp] theorem State.r8Write_core (s : State) (i : R8) (v : Byte) :
    (s.r8Write i v).r = s.r.put v i ∧ (s.r8Write i v).f = s.f ∧ (s.r8Write i v).sp = s.sp ∧
    (s.r8Write i v).pc = s.pc := by
  cases i
  case mHL => exact s.busWrite_core s.r.hl v
  all_goals exact ⟨rfl, rfl, rfl, rfl⟩

@[simp] theorem State.r16Write_core (s : State) (p : R16) (v : Word) :
    (s.r16Write p v).f = s.f ∧ (s.r16Write p v).pc = s.pc := by
  cases p <;> exact ⟨rfl, rfl⟩

theorem State.r16Write_sp (s : State) {p : R16} (hp : p ≠ .sp) (v : Word) : (s.r16Write p v).sp = s.sp := by
  cases p
  case sp => exact absurd rfl hp
  all_goals rfl

@[simp] theorem State.r16stkWrite_core (s : State) (p : R16Stk) (v : Word) :
    (s.r16stkWrite p v).sp = s.sp ∧ (s.r16stkWrite p v).pc = s.pc := by
  cases p <;> exact ⟨rfl, rfl⟩

theorem State.r16stkWrite_f (s : State) {p : R16Stk} (hp : p ≠ .af) (v : Word) : (s.r16stkWrite p v).f = s.f := by
  cases p
  case af => exact absurd rfl hp
  all_goals rfl

@[simp] theorem State.r16mem_snd_core (s : State) (p : R16Mem) :
    (s.r16mem p).2.f = s.f ∧ (s.r16mem p).2.sp = s.sp ∧ (s.r16mem p).2.pc = s.pc := by
  rw [State.r16mem_eq]; exact ⟨rfl, rfl, rfl⟩

@[simp] theorem State.pushByte_core (s : State) (v : Byte) :
    (s.pushByte v).r = s.r ∧ (s.pushByte v).f = s.f ∧ (s.pushByte v).pc = s.pc := by
  rw [State.pushByte_eq]; exact ⟨rfl, rfl, rfl⟩

@[simp] theorem State.popByte_snd_core (s : State) :
    s.popByte.2.r = s.r ∧ s.popByte.2.f = s.f ∧ s.popByte.2.pc = s.pc := by
  rw [State.popByte_eq]; exact ⟨rfl, rfl, rfl⟩

@[simp] theorem State.aluAdd_core (s : State) (x : Byte) (c : Bool) :
    (s.aluAdd x c).r = { s.r with a := (add8 s.r.a x c).1 } ∧ (s.aluAdd x c).sp = s.sp ∧ (s.aluAdd x c).pc = s.pc :=
  ⟨rfl, rfl, rfl⟩

@[simp] theorem State.aluSub_core (s : State) (x : Byte) (c : Bool) :
    (s.aluSub x c).r = { s.r with a := (sub8 s.r.a x c).1 } ∧ (s.aluSub x c).sp = s.sp ∧ (s.aluSub x c).pc = s.pc :=
  ⟨rfl, rfl, rfl⟩

@[simp] theorem State.aluLogic_core (s : State) (v : Byte) (h : Bool) :
    (s.aluLogic v h).r = { s.r with a := v } ∧ (s.aluLogic v h).sp = s.sp ∧ (s.aluLogic v h).pc = s.pc :=
  ⟨rfl, rfl, rfl⟩

@[simp] theorem State.incDecFinish_core (s : State) (i : R8) (q : Byte × Flags) :
    (s.incDecFinish i q).r = (s.r8Write i q.1).r ∧ (s.incDecFinish i q).f = { q.2 with c := s.f.c } ∧
    (s.incDecFinish i q).sp = (s.r8Write i q.1).sp ∧ (s.incDecFinish i q).pc = (s.r8Write i q.1).pc :=
  ⟨rfl, rfl, rfl, rfl⟩

/-! ## The induction over instructions that complete -/

/-- What holds of every class P instruction that completes, and of every state in which `UnknownOpcode` has been recorded and
nothing else done, holds of every instruction that completes: classes A and I record, class U is refused (R125). -/
theorem exec_next_cases {P : Instr → State → State → Prop} {i : Instr} {s t : State} (h : exec i s = .next t)
    (present : i.opClass = .present → P i s t)
    (unknown : i.opClass = .absent ∨ i.opClass = .noInstruction → P i s (s.raiseUnknownOpcode (opcode i))) : P i s t := by
  have recorded (hc : i.opClass = .absent ∨ i.opClass = .noInstruction) : P i s t := by
    rw [exec_of_absent_or_noInstruction hc] at h
    obtain rfl := Host.Outcome.next.inj h
    exact unknown hc
  cases hc : i.opClass with
  | present => exact present hc
  | absent => exact recorded (.inl hc)
  | noInstruction => exact recorded (.inr hc)
  | unnamed => rw [exec_of_unnamed hc] at h; cases h

/-- `LD r8,r8'` records HALT's byte where both fields are `[HL]`, and else copies its source into its destination (R181, R217;
log 9). -/
theorem execLdR8R8_next {dst src : R8} {s t : State} (h : execLdR8R8 dst src s = .next t) :
    ((dst = .mHL ∧ src = .mHL) ∧ t = s.raiseUnknownOpcode 0x76) ∨
    (¬ (dst = .mHL ∧ src = .mHL) ∧ t = (s.r8Read src).2.r8Write dst (s.r8Read src).1) := by
  rw [execLdR8R8] at h
  split at h <;> obtain rfl := Host.Outcome.next.inj h
  · next hboth => exact .inl ⟨hboth, rfl⟩
  · next hboth => exact .inr ⟨hboth, rfl⟩

/-! ## Program counter and SP -/

/-- No instruction writes PC (R15). -/
theorem exec_pc {i : Instr} {s t : State} (h : exec i s = .next t) : t.pc = s.pc := by
  refine exec_next_cases (P := fun _ s t => t.pc = s.pc) h (fun hc => ?_) (fun _ => rfl)
  cases i <;> cases hc
  case ldR8R8 dst src => obtain ⟨-, rfl⟩ | ⟨-, rfl⟩ := execLdR8R8_next h <;> simp
  all_goals
    obtain rfl := Host.Outcome.next.inj h
    simp

/-- SP is kept by every instruction that is not listed as writing it (R14). -/
theorem exec_sp {i : Instr} {s t : State} (h : exec i s = .next t) (hw : writesSp i = false) : t.sp = s.sp := by
  refine exec_next_cases (P := fun _ s t => t.sp = s.sp) h (fun hc => ?_) (fun _ => rfl)
  cases i <;> cases hc
  case addSpE8 | pushR16stk | popR16stk => cases hw
  case ldR8R8 dst src => obtain ⟨-, rfl⟩ | ⟨-, rfl⟩ := execLdR8R8_next h <;> simp
  case ldR16Imm16 p v =>
    obtain rfl := Host.Outcome.next.inj h
    exact s.r16Write_sp (by simpa [writesSp] using hw) v
  all_goals
    obtain rfl := Host.Outcome.next.inj h
    simp

/-! ## Registers -/

/-- `t` holds in every register but those listed what `s` holds. -/
def State.KeepsRegs (s : State) (ds : List R8) (t : State) : Prop :=
  ∀ j : R8, j ≠ .mHL → j ∉ ds → operand t j = operand s j

theorem State.KeepsRegs.of_r_eq {s t : State} (h : t.r = s.r) (ds : List R8) : s.KeepsRegs ds t :=
  fun _ hj _ => operand_congr h hj

theorem State.KeepsRegs.of_put {s t : State} {i : R8} {v : Byte} (h : t.r = s.r.put v i) : s.KeepsRegs [i] t := by
  intro j hj hds
  rw [operand_of_put h hj, if_neg (List.mem_singleton.not.mp hds)]

theorem State.KeepsRegs.of_a {s t : State} (h : t.r = { s.r with a := t.r.a }) : s.KeepsRegs [.a] t :=
  .of_put (i := .a) h

theorem State.KeepsRegs.trans {s t u : State} {ds es : List R8} (h : s.KeepsRegs ds t) (h' : t.KeepsRegs es u) :
    s.KeepsRegs (es ++ ds) u := by
  intro j hj hds
  rw [List.mem_append, not_or] at hds
  exact (h' j hj hds.1).trans (h j hj hds.2)

/-- A write to a register pair is two writes to its halves (R13). -/
theorem State.KeepsRegs.of_setHl {s t : State} {v : Word} (h : t.r = s.r.setHl v) : s.KeepsRegs [.h, .l] t :=
  (KeepsRegs.of_put (t := s.setRegs (s.r.put (loByte v) .l)) rfl).trans (.of_put (i := .h) (v := hiByte v) h)

theorem State.KeepsRegs.r16Write (s : State) (p : R16) (v : Word) : s.KeepsRegs (pairRegs p) (s.r16Write p v) := by
  cases p with
  | bc => exact (KeepsRegs.of_put (t := s.setRegs (s.r.put (loByte v) .c)) rfl).trans (.of_put (v := hiByte v) rfl)
  | de => exact (KeepsRegs.of_put (t := s.setRegs (s.r.put (loByte v) .e)) rfl).trans (.of_put (v := hiByte v) rfl)
  | hl => exact .of_setHl (v := v) rfl
  | sp => exact .of_r_eq rfl []

theorem State.KeepsRegs.r16stkWrite (s : State) (p : R16Stk) (v : Word) :
    s.KeepsRegs (stackRegs p) (s.r16stkWrite p v) := by
  cases p with
  | bc => exact .r16Write s .bc v
  | de => exact .r16Write s .de v
  | hl => exact .r16Write s .hl v
  | af => exact .of_put (v := hiByte v) rfl

theorem State.KeepsRegs.r16mem (s : State) (p : R16Mem) : s.KeepsRegs (indexRegs p) (s.r16mem p).2 := by
  cases p with
  | bc | de => exact .of_r_eq rfl []
  | hlInc | hlDec => exact .of_setHl rfl

/-- An instruction writes no register but those listed for it (R27). -/
theorem exec_keepsRegs {i : Instr} {s t : State} (h : exec i s = .next t) : s.KeepsRegs (regsWritten i) t := by
  refine exec_next_cases (P := fun i s t => s.KeepsRegs (regsWritten i) t) h (fun hc => ?_) (fun _ => .of_r_eq rfl _)
  cases i <;> cases hc
  case ldR8R8 dst src =>
    obtain ⟨-, rfl⟩ | ⟨-, rfl⟩ := execLdR8R8_next h
    · exact .of_r_eq rfl _
    · exact .of_put (v := (s.r8Read src).1) (by simp)
  all_goals obtain rfl := Host.Outcome.next.inj h
  case incR8 r => exact .of_put (v := (add8 (s.r8Read r).1 1 false).1) (by simp)
  case decR8 r => exact .of_put (v := (sub8 (s.r8Read r).1 1 false).1) (by simp)
  case ldR8Imm8 r n => exact .of_put (v := n) (by simp)
  case addHlR16 p => exact .of_setHl (v := (add16 s.r.hl (s.r16Read p) s.f).1) rfl
  case ldHlSpE8 n => exact .of_setHl (v := (spAdd s.sp n).1) rfl
  case ldR16Imm16 p v => exact .r16Write s p v
  case popR16stk p =>
    have hpop : s.KeepsRegs [] s.popByte.2.popByte.2 := .of_r_eq (by simp) []
    simpa [regsWritten] using hpop.trans (.r16stkWrite _ p (wordOf s.popByte.2.popByte.1 s.popByte.1))
  case ldR16memA p => exact (State.KeepsRegs.r16mem s p).trans (.of_r_eq (by simp) [])
  case ldAR16mem p => exact (State.KeepsRegs.r16mem s p).trans (.of_a (by simp))
  case nop | addSpE8 | pushR16stk | ldhA8A => exact .of_r_eq (by simp) []
  all_goals exact .of_a (by simp)

/-- Settles O18: registers, SP and PC, each by its own frame. -/
theorem onlyDestinationRegistersChange : Obligations.OnlyDestinationRegistersChange :=
  fun _ _ _ h => ⟨exec_keepsRegs h, exec_sp h, exec_pc h⟩

/-! ## Flags -/

/-- The flags `f'` are those of `f` where `w` does not say that they are written. -/
def Flags.Keeps (w f f' : Flags) : Prop :=
  (w.z = false → f'.z = f.z) ∧ (w.n = false → f'.n = f.n) ∧ (w.h = false → f'.h = f.h) ∧ (w.c = false → f'.c = f.c)

theorem Flags.Keeps.of_eq {f f' : Flags} (h : f' = f) (w : Flags) : w.Keeps f f' := by subst h; simp [Flags.Keeps]

theorem Flags.Keeps.of_all (f f' : Flags) : Flags.Keeps { z := true, n := true, h := true, c := true } f f' :=
  ⟨nofun, nofun, nofun, nofun⟩

/-- An instruction changes no flag but those listed as written (R40). -/
theorem exec_keepsFlags {i : Instr} {s t : State} (h : exec i s = .next t) : (flagsWritten i).Keeps s.f t.f := by
  refine exec_next_cases (P := fun i s t => (flagsWritten i).Keeps s.f t.f) h (fun hc => ?_) (fun _ => .of_eq rfl _)
  cases i <;> cases hc
  case ldR8R8 dst src => obtain ⟨-, rfl⟩ | ⟨-, rfl⟩ := execLdR8R8_next h <;> exact .of_eq (by simp) _
  all_goals obtain rfl := Host.Outcome.next.inj h
  case incR8 r | decR8 r => exact ⟨nofun, nofun, nofun, fun _ => by simp⟩
  case addHlR16 p => exact ⟨fun _ => rfl, nofun, nofun, nofun⟩
  case popR16stk p =>
    by_cases hp : p = .af
    · subst hp; exact .of_all _ _
    · exact .of_eq (by simp [State.r16stkWrite_f _ hp]) _
  case nop | ldR8Imm8 | ldR16memA | ldAR16mem | ldR16Imm16 | pushR16stk | ldhA8A | ldhAA8 => exact .of_eq (by simp) _
  all_goals exact .of_all _ _

/-- Settles O17: `Flags.Keeps` is the statement's frame of the four flags. -/
theorem onlyTabledFlagsChange : Obligations.OnlyTabledFlagsChange := fun _ _ _ => exec_keepsFlags

end Sys2Proof.Machine
end

section
/-! SUPPORT. Changes of flags and of past conditions, which no shared operation sees, and what instructions make of them. -/

namespace Sys2Proof.Machine

open Sys2Proof.Spec

/-! ## A change that no shared operation sees -/

/-- The state with its flags changed by `F`, and with the conditions `es` recorded before its own. -/
def State.disguise (F : Flags → Flags) (es : List Event) (s : State) : State :=
  { s with f := F s.f, events := es ++ s.events }

section
variable (F : Flags → Flags) (es : List Event) (s : State)

@[simp] theorem State.disguise_r : (s.disguise F es).r = s.r := rfl
@[simp] theorem State.disguise_sp : (s.disguise F es).sp = s.sp := rfl
@[simp] theorem State.disguise_f : (s.disguise F es).f = F s.f := rfl
@[simp] theorem State.disguise_setRegs (r : Regs) :
    (s.disguise F es).setRegs r = (s.setRegs r).disguise F es := rfl
@[simp] theorem State.disguise_setSp (v : Word) : (s.disguise F es).setSp v = (s.setSp v).disguise F es := rfl
@[simp] theorem State.disguise_setA (v : Byte) : (s.disguise F es).setA v = (s.setA v).disguise F es := rfl
@[simp] theorem State.disguise_internal (n : Nat) : (s.disguise F es).internal n = (s.internal n).disguise F es := rfl

@[simp] theorem State.disguise_aluAdd (x : Byte) (c : Bool) :
    (s.disguise F es).aluAdd x c = ((s.aluAdd x c).disguise F es).setFlags (s.aluAdd x c).f := rfl
@[simp] theorem State.disguise_aluSub (x : Byte) (c : Bool) :
    (s.disguise F es).aluSub x c = ((s.aluSub x c).disguise F es).setFlags (s.aluSub x c).f := rfl
@[simp] theorem State.disguise_aluLogic (v : Byte) (h : Bool) :
    (s.disguise F es).aluLogic v h = ((s.aluLogic v h).disguise F es).setFlags (s.aluLogic v h).f := rfl
@[simp] theorem State.disguise_raiseUnknownOpcode (op : Byte) :
    (s.disguise F es).raiseUnknownOpcode op = (s.raiseUnknownOpcode op).disguise F es :=
  congrArg (fun l => { s with f := F s.f, events := l }) (List.append_assoc es s.events _)

@[simp] theorem State.disguise_busRead (a : Word) :
    (s.disguise F es).busRead a = ((s.busRead a).1, (s.busRead a).2.disguise F es) := by
  simp only [State.busRead_eq, State.disguise, List.append_assoc]

@[simp] theorem State.disguise_busWrite (a : Word) (v : Byte) :
    (s.disguise F es).busWrite a v = (s.busWrite a v).disguise F es := by
  simp only [State.busWrite_eq, State.disguise, List.append_assoc]

@[simp] theorem State.disguise_r8Read (i : R8) :
    (s.disguise F es).r8Read i = ((s.r8Read i).1, (s.r8Read i).2.disguise F es) := by
  cases i
  case mHL => exact s.disguise_busRead F es s.r.hl
  all_goals rfl

@[simp] theorem State.disguise_r8Write (i : R8) (v : Byte) :
    (s.disguise F es).r8Write i v = (s.r8Write i v).disguise F es := by
  cases i
  case mHL => exact s.disguise_busWrite F es s.r.hl v
  all_goals rfl

@[simp] theorem State.disguise_r16Read (p : R16) : (s.disguise F es).r16Read p = s.r16Read p := by cases p <;> rfl

@[simp] theorem State.disguise_r16Write (p : R16) (v : Word) :
    (s.disguise F es).r16Write p v = (s.r16Write p v).disguise F es := by cases p <;> rfl

@[simp] theorem State.disguise_r16mem (p : R16Mem) :
    (s.disguise F es).r16mem p = ((s.r16mem p).1, (s.r16mem p).2.disguise F es) := by cases p <;> rfl

@[simp] theorem State.disguise_pushByte (v : Byte) :
    (s.disguise F es).pushByte v = (s.pushByte v).disguise F es := by
  simp only [State.pushByte, State.disguise_sp, State.disguise_setSp, State.disguise_busWrite]

@[simp] theorem State.disguise_popByte : (s.disguise F es).popByte = (s.popByte.1, s.popByte.2.disguise F es) := by
  simp only [State.popByte, State.disguise_sp, State.disguise_busRead, State.disguise_setSp]

/-- Of the pairs in Stack mode AF alone reads the flags (R16, R23). -/
theorem State.disguise_r16stkRead {p : R16Stk} (h : p ≠ .af ∨ F s.f = s.f) :
    (s.disguise F es).r16stkRead p = s.r16stkRead p := by
  cases p
  case af =>
    obtain h | h := h
    · exact absurd rfl h
    · simp only [State.r16stkRead, State.af, State.disguise_r, State.disguise_f, h]
  all_goals rfl

/-- Of the pairs in Stack mode AF alone writes the flags (R17, R23). -/
theorem State.disguise_r16stkWrite {p : R16Stk} (hp : p ≠ .af) (v : Word) :
    (s.disguise F es).r16stkWrite p v = (s.r16stkWrite p v).disguise F es := by
  cases p
  case af => exact absurd rfl hp
  all_goals rfl

end

/-! ## What an instruction makes of a disguised state -/

/-- The flags `f'` where `w` says that they are written, the flags `f` elsewhere. -/
def Flags.merge (w f f' : Flags) : Flags :=
  { z := if w.z then f'.z else f.z, n := if w.n then f'.n else f.n
    h := if w.h then f'.h else f.h, c := if w.c then f'.c else f.c }

/-- Flags that are kept where they are not written are the flags before, merged with the flags after. -/
theorem Flags.Keeps.merge_eq {w f f' : Flags} (h : w.Keeps f f') : w.merge f f' = f' := by
  obtain ⟨hz, hn, hh, hc⟩ := h
  have pick {b x y : Bool} (hb : b = false → y = x) : (if b then y else x) = y := by
    cases b
    · exact (hb rfl).symm
    · rfl
  rw [Flags.merge, pick hz, pick hn, pick hh, pick hc]

theorem flagsWritten_of_absent_or_noInstruction {i : Instr} (h : i.opClass = .absent ∨ i.opClass = .noInstruction) :
    flagsWritten i = { z := false, n := false, h := false, c := false } := by
  rcases h with h | h <;> cases i <;> cases h <;> rfl

/-- Where no flag is written, the disguised result shows the disguised flags already. -/
theorem State.disguise_merge_none {F : Flags → Flags} (es : List Event) {s t : State} {w : Flags}
    (hw : w = { z := false, n := false, h := false, c := false }) (ht : t.f = s.f) :
    (t.disguise F es).setFlags (w.merge (F s.f) t.f) = t.disguise F es := by
  subst hw
  have hmerge : Flags.merge { z := false, n := false, h := false, c := false } (F s.f) t.f = F t.f := by rw [ht]; rfl
  rw [hmerge]
  rfl

/-- An instruction that reads no flag, or whose flags are not disguised, takes a disguised state to the disguised result; the
flags it writes are those of the result, the others the disguised ones (R40). -/
theorem exec_disguise {F : Flags → Flags} (es : List Event) {i : Instr} {s t : State}
    (hF : readsFlags i = false ∨ F s.f = s.f) (h : exec i s = .next t) :
    exec i (s.disguise F es) = .next ((t.disguise F es).setFlags ((flagsWritten i).merge (F s.f) t.f)) := by
  revert hF
  refine exec_next_cases h (fun hc hF => ?_) (fun hc _ => ?unknown)
    (P := fun i s t => readsFlags i = false ∨ F s.f = s.f →
      exec i (s.disguise F es) = .next ((t.disguise F es).setFlags ((flagsWritten i).merge (F s.f) t.f)))
  case unknown =>
    rw [exec_of_absent_or_noInstruction hc, State.disguise_raiseUnknownOpcode,
      State.disguise_merge_none es (flagsWritten_of_absent_or_noInstruction hc) (s.raiseUnknownOpcode_f _)]
  have keeps (hw : flagsWritten i = { z := false, n := false, h := false, c := false }) (ht : t.f = s.f)
      (he : exec i (s.disguise F es) = .next (t.disguise F es)) :
      exec i (s.disguise F es) = .next ((t.disguise F es).setFlags ((flagsWritten i).merge (F s.f) t.f)) := by
    rw [he, State.disguise_merge_none es hw ht]
  have gives (hw : flagsWritten i = { z := true, n := true, h := true, c := true })
      (he : exec i (s.disguise F es) = .next ((t.disguise F es).setFlags t.f)) :
      exec i (s.disguise F es) = .next ((t.disguise F es).setFlags ((flagsWritten i).merge (F s.f) t.f)) := by
    rw [he, hw]; rfl
  cases i <;> cases hc
  case ldR8R8 dst src =>
    obtain ⟨hboth, rfl⟩ | ⟨hboth, rfl⟩ := execLdR8R8_next h
    · exact keeps rfl rfl (by simp [exec, execLdR8R8, hboth])
    · exact keeps rfl (by simp) (by simp [exec, execLdR8R8, hboth])
  all_goals obtain rfl := Host.Outcome.next.inj h
  case nop => exact keeps rfl rfl rfl
  case ldR16Imm16 | ldR8Imm8 | ldR16memA | ldAR16mem | ldhA8A | ldhAA8 =>
    exact keeps rfl (by simp)
      (by simp [exec, execLdR16Imm16, execLdR8Imm8, execLdR16memA, execLdAR16mem, execLdhA8A, execLdhAA8])
  case pushR16stk p =>
    have hp : p ≠ .af ∨ F s.f = s.f := by simpa [readsFlags] using hF
    exact keeps rfl (by simp) (by simp [exec, execPushR16stk, s.disguise_r16stkRead F es hp])
  case popR16stk p =>
    by_cases hp : p = .af
    · subst hp
      refine gives rfl ?_
      simp only [exec, execPopR16stk, State.disguise_popByte]
      rfl
    · exact keeps (by simp [flagsWritten, hp]) (by simp [State.r16stkWrite_f _ hp])
        (by simp [exec, execPopR16stk, State.disguise_r16stkWrite F es _ hp])
  case addAR8 | subAR8 | andAR8 | xorAR8 | orAR8 =>
    exact gives rfl (by simp [exec, execAddAR8, execSubAR8, execAndAR8, execXorAR8, execOrAR8])
  case addAImm8 | subAImm8 | andAImm8 | xorAImm8 | orAImm8 | addSpE8 | ldHlSpE8 => exact gives rfl rfl
  case adcAR8 | adcAImm8 | sbcAR8 | sbcAImm8 =>
    have hF : F s.f = s.f := by simpa [readsFlags] using hF
    exact gives rfl (by simp [exec, execAdcAR8, execAdcAImm8, execSbcAR8, execSbcAImm8, hF])
  case incR8 | decR8 =>
    simp only [exec, execIncR8, execDecR8, State.incDecFinish, State.disguise_r8Read, State.disguise_r8Write,
      State.disguise_f, State.r8Read_snd_f]
    rfl
  case addHlR16 =>
    simp only [exec, execAddHlR16, State.disguise_r16Read]
    rfl

/-- Settles O19: the flags disguised as `g`. -/
theorem otherInstructionsIgnoreFlags : Obligations.OtherInstructionsIgnoreFlags := by
  intro i s t g hi h
  have hu : exec i { s with f := g } = _ := exec_disguise (F := fun _ => g) [] (.inl hi) h
  exact ⟨_, hu, rfl, rfl, rfl, rfl, rfl, rfl, fun h => if_pos h, fun h => if_pos h, fun h => if_pos h, fun h => if_pos h⟩

/-- Conditions recorded before an instruction change nothing but the record it adds to (R33). -/
theorem exec_disguise_events (es : List Event) {i : Instr} {s t : State} (h : exec i s = .next t) :
    exec i (s.disguise id es) = .next (t.disguise id es) := by
  rw [exec_disguise es (.inr rfl) h, id, (exec_keepsFlags h).merge_eq]
  rfl

end Sys2Proof.Machine
end

section
/-! SUPPORT. A step as one instruction run in the state after its bytes are fetched, and the conditions that a step records. -/

namespace Sys2Proof

/-! ## What a row builds, whatever bytes follow the opcode -/

/-- The opcode byte and the check of an instruction do not depend on its immediates (R90, R93). -/
theorem rowOf_build_congr {op : Byte} {row : OpcodeRow} (h : rowOf op = some row) (b2 b3 : Byte) :
    opcode (row.build op b2 b3) = opcode (row.build op 0 0) ∧
    (row.build op b2 b3).wellFormed = (row.build op 0 0).wellFormed := by
  apply rowOf_of_forall h (q := fun r => opcode (r.build op b2 b3) = opcode (r.build op 0 0) ∧
    (r.build op b2 b3).wellFormed = (r.build op 0 0).wellFormed)
  simp only [opcodeTable, opcodeRowsBlock0, opcodeRowsBlocks12, opcodeRowsBlock3a, opcodeRowsBlock3b,
    opcodeRowsNoInstruction, List.cons_append, List.nil_append, List.forall_mem_cons, List.not_mem_nil, false_imp_iff,
    implies_true, and_true, true_and]
  and_intros <;> rfl

/-- What an opcode's row builds has that opcode and is well-formed, whatever bytes follow (R96, R100). -/
theorem rowOf_build {op : Byte} {row : OpcodeRow} (h : rowOf op = some row) (b2 b3 : Byte) :
    opcode (row.build op b2 b3) = op ∧ (row.build op b2 b3).wellFormed = true := by
  obtain ⟨hop, hwf⟩ := rowOf_build_congr h b2 b3
  have hall := rowOf_build_opcode op
  rw [h] at hall
  rw [hop, hwf]
  simpa using hall

namespace Machine

open Spec

/-! ## A step runs the instruction at PC -/

/-- `i` is the instruction whose bytes stand at PC. -/
def State.Next (s : State) (i : Instr) : Prop :=
  ∃ rest, decode [s.bus.byteAt s.pc, s.bus.byteAt (s.pc + 1), s.bus.byteAt (s.pc + 2)] = .ok (i, rest)

/-- Only one instruction stands at PC. -/
theorem State.Next.unique {s : State} {i j : Instr} (hi : s.Next i) (hj : s.Next j) : i = j := by
  obtain ⟨_, hi⟩ := hi
  obtain ⟨_, hj⟩ := hj
  rw [hi] at hj
  cases hj
  rfl

/-- Where the bytes at PC are those of `s'`, the same instruction stands there. -/
theorem State.Next.congr {s s' : State} {i : Instr} (h : s.Next i) (hpc : s'.pc = s.pc) (hbus : s'.bus = s.bus) :
    s'.Next i := by
  rw [State.Next, hpc, hbus]
  exact h

/-- What a row of length 1, 2 or 3 builds from the bytes at PC is fetched with as many bytes (R62, R90, R127). -/
theorem State.fetchInstr_eq {s : State} {row : OpcodeRow} (h : rowOf (s.bus.byteAt s.pc) = some row) :
    ∃ b2 b3, s.Next (row.build (s.bus.byteAt s.pc) b2 b3) ∧
      s.beginStep.fetchInstr = some (row.build (s.bus.byteAt s.pc) b2 b3, afterFetch row.length s) := by
  have hdec := decode_of_rowOf h (s.bus.byteAt (s.pc + 1)) (s.bus.byteAt (s.pc + 2)) []
  rcases rowOf_length _ _ h with hl | hl | hl <;> rw [hl] at hdec
  · refine ⟨0, 0, ⟨_, hdec⟩, ?_⟩
    rw [State.fetchInstr_one (s := s.beginStep) h hl, hl]
    simp [afterFetch, fetchEvents, Bus.accessEvents_eq, State.beginStep, State.setCycles]
  · refine ⟨_, 0, ⟨_, hdec⟩, ?_⟩
    rw [State.fetchInstr_two (s := s.beginStep) h hl, hl]
    simp [afterFetch, fetchEvents, Bus.accessEvents_eq, State.beginStep, State.setCycles, BitVec.add_assoc]
  · refine ⟨_, _, ⟨_, hdec⟩, ?_⟩
    rw [State.fetchInstr_three (s := s.beginStep) h hl, hl]
    simp [afterFetch, fetchEvents, Bus.accessEvents_eq, State.beginStep, State.setCycles, BitVec.add_assoc]

/-- An instruction stands at PC in every state (R96). -/
theorem State.exists_next (s : State) : ∃ i, s.Next i := by
  obtain ⟨row, hrow⟩ := exists_rowOf (s.bus.byteAt s.pc)
  obtain ⟨b2, b3, hnext, -⟩ := State.fetchInstr_eq hrow
  exact ⟨_, hnext⟩

/-- The instruction at PC is what the row of the byte at PC builds. -/
theorem State.Next.exists_build {s : State} {i : Instr} (hi : s.Next i) :
    ∃ row b2 b3, rowOf (s.bus.byteAt s.pc) = some row ∧ i = row.build (s.bus.byteAt s.pc) b2 b3 := by
  obtain ⟨row, hrow⟩ := exists_rowOf (s.bus.byteAt s.pc)
  obtain ⟨b2, b3, hnext, -⟩ := State.fetchInstr_eq hrow
  exact ⟨row, b2, b3, hrow, hi.unique hnext⟩

/-- A step is the instruction at PC, run after its bytes are fetched (R120). -/
theorem State.Next.step_eq {s : State} {i : Instr} (hi : s.Next i) : step s = exec i (afterFetch i.length s) := by
  obtain ⟨row, hrow⟩ := exists_rowOf (s.bus.byteAt s.pc)
  obtain ⟨b2, b3, hnext, hfetch⟩ := State.fetchInstr_eq hrow
  rw [hi.unique hnext, step, hfetch, rowOf_build_length hrow]

/-- Settles O12: the fetch moves PC past the instruction, and `exec` leaves it there. -/
theorem programCounterMovesByFetchingAlone : Obligations.ProgramCounterMovesByFetchingAlone := by
  intro s t i rest hdec h
  have hi : s.Next i := ⟨rest, hdec⟩
  rw [hi.step_eq] at h
  exact exec_pc h

/-- Stores keep both bank indices (R55). -/
theorem Bus.Stored.banks {b b' : Bus} {as : List Word} (h : Bus.Stored b as b') :
    b'.romBank = b.romBank ∧ b'.wramBank = b.wramBank := by
  induction h with
  | nil b => exact ⟨rfl, rfl⟩
  | cons v _ ih => simpa using ih

/-- Settles O15: a step changes memory by stores alone, which keep the bank indices, and the map depends on these alone. -/
theorem noStepSwitchesABank : Obligations.NoStepSwitchesABank := by
  intro s t h
  obtain ⟨as, hparams, hstored⟩ := step_storesAt h
  obtain ⟨hrom, hwram⟩ := hstored.banks
  exact ⟨hrom, hwram, hparams, Bus.map_congr hrom hwram⟩

/-! ## A read between two steps -/

/-- Every instruction of class P completes, in every state (R125). -/
theorem exec_completes_of_present {i : Instr} (hc : i.opClass = .present) (s : State) : ∃ t, exec i s = .next t := by
  cases i <;> cases hc
  case ldR8R8 dst src =>
    simp only [exec, execLdR8R8]
    split <;> exact ⟨_, rfl⟩
  all_goals exact ⟨_, rfl⟩

/-- Every instruction outside class U completes, in every state (R125). -/
theorem exec_completes {i : Instr} (hi : i.opClass ≠ .unnamed) (s : State) : ∃ t, exec i s = .next t := by
  cases hc : i.opClass with
  | present => exact exec_completes_of_present hc s
  | absent => exact ⟨_, exec_of_absent_or_noInstruction (.inl hc) s⟩
  | noInstruction => exact ⟨_, exec_of_absent_or_noInstruction (.inr hc) s⟩
  | unnamed => exact absurd hc hi

/-- Whether an instruction completes does not depend on the state (R125). -/
theorem exec_completes_of_next {i : Instr} {s t : State} (h : exec i s = .next t) (s' : State) : ∃ t', exec i s' = .next t' :=
  exec_completes (fun hc => by rw [exec_of_unnamed hc] at h; cases h) s'

/-- The conditions recorded before a step are recorded before those of its fetch (R33). -/
theorem afterFetch_eq_disguise (n : Nat) (s : State) :
    afterFetch n s = (afterFetch n { s with events := [] }).disguise id s.events := rfl

/-- A read before a step leaves the fetch of the step what it is, but for the conditions recorded before it (R29). -/
theorem afterFetch_busRead (n : Nat) (s : State) (a : Word) :
    afterFetch n (s.busRead a).2 = (afterFetch n { s with events := [] }).disguise id (s.busRead a).2.events := by
  rw [State.busRead_eq]; rfl

/-- Settles O21: with or without the read, the step is the one from an empty record with past conditions put before its own. -/
theorem cyclesBetweenStepsAreLost : Obligations.CyclesBetweenStepsAreLost := by
  intro s t a h
  obtain ⟨i, hi⟩ := s.exists_next
  have hu : (s.busRead a).2.Next i := hi.congr (by simp) (by simp)
  rw [hi.step_eq] at h
  obtain ⟨t₀, h₀⟩ := exec_completes_of_next h (afterFetch i.length { s with events := [] })
  rw [afterFetch_eq_disguise, exec_disguise_events s.events h₀] at h
  obtain rfl := Host.Outcome.next.inj h
  refine ⟨_, t₀.disguise id (s.busRead a).2.events, rfl, by rw [State.busRead_eq], ?_, ⟨rfl, rfl, rfl, rfl, rfl⟩, rfl⟩
  rw [hu.step_eq, afterFetch_busRead, exec_disguise_events _ h₀]

/-! ## The record of conditions -/

/-- The second record is the first with entries added, each of which meets `P` (R33). -/
def Records (P : Event → Prop) (es es' : List Event) : Prop := ∃ l, es' = es ++ l ∧ ∀ e ∈ l, P e

theorem Records.refl (P : Event → Prop) (es : List Event) : Records P es es := ⟨[], (List.append_nil es).symm, nofun⟩

theorem Records.trans {P : Event → Prop} {es es' es'' : List Event} (h : Records P es es') (h' : Records P es' es'') :
    Records P es es'' := by
  obtain ⟨l, rfl, hl⟩ := h
  obtain ⟨l', rfl, hl'⟩ := h'
  exact ⟨l ++ l', List.append_assoc .., List.forall_mem_append.mpr ⟨hl, hl'⟩⟩

theorem Records.mono {P Q : Event → Prop} {es es' : List Event} (h : Records P es es') (hPQ : ∀ e, P e → Q e) :
    Records Q es es' := by
  obtain ⟨l, hl, hP⟩ := h
  exact ⟨l, hl, fun e he => hPQ e (hP e he)⟩

/-- An access to the unusable range (R271). -/
def Event.IsUnmapped (e : Event) : Prop :=
  ∃ k a, e = .unmappedAccess k a ∧ 0xFEA0 ≤ a.toNat ∧ a.toNat ≤ 0xFEFF

/-- An access records at most its own address, and only in the unusable range (R52, R271). -/
theorem Records.unmappedEvent (es : List Event) (k : AccessKind) (a : Word) :
    Records Event.IsUnmapped es (es ++ unmappedEvent k a) := by
  refine ⟨_, rfl, fun e he => ?_⟩
  rw [Spec.unmappedEvent] at he
  split at he
  · next ha => exact ⟨k, a, List.mem_singleton.mp he, ha⟩
  · cases he

theorem Records.fetchEvents (es : List Event) (n : Nat) (a : Word) :
    Records Event.IsUnmapped es (es ++ fetchEvents n a) := by
  induction n generalizing es a with
  | zero => exact ⟨[], rfl, nofun⟩
  | succ n ih =>
    rw [Spec.fetchEvents, ← List.append_assoc]
    exact (Records.unmappedEvent es .read a).trans (ih _ _)

theorem Records.busRead (s : State) (a : Word) : Records Event.IsUnmapped s.events (s.busRead a).2.events := by
  rw [State.busRead_eq, Bus.accessEvents_eq]
  exact .unmappedEvent _ _ _

theorem Records.busWrite (s : State) (a : Word) (v : Byte) : Records Event.IsUnmapped s.events (s.busWrite a v).events := by
  rw [State.busWrite_eq, Bus.accessEvents_eq]
  exact .unmappedEvent _ _ _

theorem Records.r8Read (s : State) (i : R8) : Records Event.IsUnmapped s.events (s.r8Read i).2.events := by
  cases i
  case mHL => exact .busRead s s.r.hl
  all_goals exact .refl _ _

theorem Records.r8Write (s : State) (i : R8) (v : Byte) : Records Event.IsUnmapped s.events (s.r8Write i v).events := by
  cases i
  case mHL => exact .busWrite s s.r.hl v
  all_goals exact .refl _ _

theorem Records.pushByte (s : State) (v : Byte) : Records Event.IsUnmapped s.events (s.pushByte v).events :=
  .busWrite (s.setSp (s.sp - 1)) _ v

theorem Records.popByte (s : State) : Records Event.IsUnmapped s.events s.popByte.2.events := .busRead s s.sp

@[simp] theorem State.r16Write_events (s : State) (p : R16) (v : Word) : (s.r16Write p v).events = s.events := by
  cases p <;> rfl
@[simp] theorem State.r16stkWrite_events (s : State) (p : R16Stk) (v : Word) : (s.r16stkWrite p v).events = s.events := by
  cases p <;> rfl
@[simp] theorem State.r16mem_snd_events (s : State) (p : R16Mem) : (s.r16mem p).2.events = s.events := by
  cases p <;> rfl

/-- A well-formed instruction of class P records accesses to the unusable range alone (R125, R271). -/
theorem exec_records_of_present {i : Instr} {s t : State} (hc : i.opClass = .present) (hwf : i.wellFormed = true)
    (h : exec i s = .next t) : Records Event.IsUnmapped s.events t.events := by
  cases i <;> cases hc
  case ldR8R8 dst src =>
    obtain ⟨⟨rfl, rfl⟩, -⟩ | ⟨-, rfl⟩ := execLdR8R8_next h
    · cases hwf
    · exact (Records.r8Read s src).trans (.r8Write _ dst _)
  all_goals obtain rfl := Host.Outcome.next.inj h
  case incR8 r | decR8 r => exact (Records.r8Read s r).trans (.r8Write _ r _)
  case ldR8Imm8 r n => exact .r8Write s r n
  case ldR16memA p => simpa using Records.busWrite (s.r16mem p).2 (s.r16mem p).1 s.r.a
  case ldAR16mem p => simpa using Records.busRead (s.r16mem p).2 (s.r16mem p).1
  case ldhA8A n => exact .busWrite s _ _
  case ldhAA8 n => exact .busRead s _
  case pushR16stk p => exact (Records.pushByte s _).trans (.pushByte _ _)
  case popR16stk p => simpa using (Records.popByte s).trans (.popByte s.popByte.2)
  case ldR16Imm16 p v => simpa using Records.refl Event.IsUnmapped s.events
  case nop | addHlR16 | addSpE8 | ldHlSpE8 => exact .refl _ _
  case addAR8 r | adcAR8 r | subAR8 r | sbcAR8 r | andAR8 r | xorAR8 r | orAR8 r => exact .r8Read s r
  all_goals exact .refl _ _

theorem mayRecord_of_isUnmapped (s : State) (e : Event) (h : e.IsUnmapped) : mayRecord s e := by
  obtain ⟨k, a, rfl, ha⟩ := h
  exact ha

/-- An instruction of class A or I is one byte long (R105, R210). -/
theorem length_of_absent_or_noInstruction {i : Instr} (h : i.opClass = .absent ∨ i.opClass = .noInstruction) :
    i.length = 1 := by
  rcases h with h | h <;> cases i <;> cases h <;> rfl

/-- Settles O14: the fetch records accesses; the instruction records accesses if it is of class P, its opcode if of A or I. -/
theorem stepAddsOnlyTheNamedConditions : Obligations.StepAddsOnlyTheNamedConditions := by
  intro s t h
  obtain ⟨i, hi⟩ := s.exists_next
  obtain ⟨row, b2, b3, hrow, rfl⟩ := hi.exists_build
  rw [hi.step_eq] at h
  have hcls := rowOf_build_opClass hrow b2 b3
  obtain ⟨hop, hwf⟩ := rowOf_build hrow b2 b3
  generalize row.build (s.bus.byteAt s.pc) b2 b3 = i at *
  have hfetch : Records (mayRecord s) s.events (afterFetch i.length s).events :=
    (Records.fetchEvents s.events i.length s.pc).mono (mayRecord_of_isUnmapped s)
  refine hfetch.trans (exec_next_cases h (P := fun _ s' t => Records (mayRecord s) s'.events t.events)
    (fun hc => ?_) (fun hc => ?_))
  · exact (exec_records_of_present hc hwf h).mono (mayRecord_of_isUnmapped s)
  · refine ⟨[.unknownOpcode (opcode i) ((afterFetch i.length s).pc - 1)], rfl, ?_⟩
    rw [List.forall_mem_singleton, hop, length_of_absent_or_noInstruction hc]
    exact ⟨rfl, BitVec.add_sub_cancel s.pc 1, row, hrow, hcls ▸ hc⟩

end Machine
end Sys2Proof
end

section
/-! SUPPORT. The moves of host and collaborators, and sessions of steps and moves: what each move can do to the bus, and that
every session keeps the invariant (R286 to R289). -/

namespace Sys2Proof.Machine

open Sys2Proof.Spec

/-! ## One move (R286 to R288) -/

@[simp] theorem State.setPair_bus (s : State) (p : Pair) (v : Nat) : (s.setPair p v).bus = s.bus := by cases p <;> rfl
@[simp] theorem State.setPair_params (s : State) (p : Pair) (v : Nat) : (s.setPair p v).params = s.params := by
  cases p <;> rfl
@[simp] theorem State.setFlag_bus (s : State) (g : FlagName) (v : Bool) : (s.setFlag g v).bus = s.bus := by
  cases g <;> rfl
@[simp] theorem State.setFlag_params (s : State) (g : FlagName) (v : Bool) : (s.setFlag g v).params = s.params := by
  cases g <;> rfl

/-- A move that switches no bank changes memory by stores alone (R286, R288). -/
theorem applyMove_storesAt {m : Move} {s t : State} (h : applyMove m s = .next t)
    (hm : ∀ k, m ≠ .mapRomBank k ∧ m ≠ .mapWramBank k) : ∃ as, s.StoresAt as t := by
  cases m
  case mapRomBank n => exact absurd rfl (hm n).1
  case mapWramBank n => exact absurd rfl (hm n).2
  all_goals obtain rfl := Host.Outcome.next.inj h
  case write a v => exact ⟨_, .of_store _ (State.busWrite_params ..) (State.busWrite_bus ..)⟩
  case setReg8 i v => exact ⟨_, .of_r8Write _ (State.r8Write_params ..) rfl⟩
  all_goals exact ⟨[], .of_bus_eq (by simp) (by simp)⟩

/-- `map ROM bank N` succeeds for a legal index alone, and sets that index and nothing else (R58, R59). -/
theorem State.mapRomBank_next {s t : State} {n : Nat} (h : s.mapRomBank n = .next t) :
    n < romBanks s.params ∧ t = s.setBus { s.bus with romBank := n } := by
  rw [State.mapRomBank] at h
  split at h <;> cases h
  next hn => exact ⟨hn, rfl⟩

/-- `map WRAM bank N` succeeds for a legal index alone, and sets that index and nothing else (R58, R59). -/
theorem State.mapWramBank_next {s t : State} {n : Nat} (h : s.mapWramBank n = .next t) :
    n < s.params.wramBanks ∧ t = s.setBus { s.bus with wramBank := n } := by
  rw [State.mapWramBank] at h
  split at h <;> cases h
  next hn => exact ⟨hn, rfl⟩

/-- Every move keeps the invariant: a switch sets a legal index, the other moves store (R59, R61). -/
theorem applyMove_inv {m : Move} {s t : State} (hi : s.Inv) (h : applyMove m s = .next t) : t.Inv := by
  obtain ⟨hparams, hrom, hwram, hwf⟩ := id hi
  cases m
  case mapRomBank n =>
    obtain ⟨hn, rfl⟩ := State.mapRomBank_next h
    exact ⟨hparams, hn, hwram, hwf⟩
  case mapWramBank n =>
    obtain ⟨hn, rfl⟩ := State.mapWramBank_next h
    exact ⟨hparams, hrom, hn, hwf⟩
  all_goals
    obtain ⟨as, hst⟩ := applyMove_storesAt h fun _ => ⟨nofun, nofun⟩
    exact hst.inv hi

/-! ## Sessions (R72, R289) -/

/-- What every action keeps, every session that ends in a state keeps. -/
theorem runActions_keeps {P : State → Prop} (hact : ∀ x s t, P s → act x s = .next t → P t) {xs : List Action}
    {s t : State} (hs : P s) (h : runActions xs s = .next t) : P t := by
  induction xs generalizing s with
  | nil => cases h; exact hs
  | cons x xs ih =>
    rw [runActions] at h
    split at h
    · next u hu => exact ih (hact x s u hs hu) h
    · cases h
    · cases h

/-- Settles O11: a session is steps and moves, and each of the two keeps the invariant. -/
theorem sessionsKeepTheInvariant : Obligations.SessionsKeepTheInvariant := by
  intro xs s t hi h
  refine runActions_keeps (fun x s t hs hx => ?_) hi h
  cases x with
  | step => exact stepKeepsTheInvariant s t hs hx
  | move m => exact applyMove_inv hs hx

end Sys2Proof.Machine
end

section
/-! SUPPORT. The address map: R51's table, the echo windows, and what a bank switch rewrites (R51 to R59). -/

namespace Sys2Proof.Machine

open Sys2Proof.Spec

/-! ## The table (R51, R54) -/

/-- The slot `k` bytes into a region (R51, R55). -/
theorem Bus.map_first_add (b : Bus) (g : Region) {k : Nat} (hk : k < g.size) :
    b.map (BitVec.ofNat 16 (g.first + k)) = g.slot (b.bankOf g) k := by
  have hend : g.first + g.size ≤ 2 ^ 16 := by cases g <;> decide
  have ha : (BitVec.ofNat 16 (g.first + k)).toNat = g.first + k :=
    (BitVec.toNat_ofNat ..).trans (Nat.mod_eq_of_lt (by omega))
  rw [b.map_eq _ g (by omega) (by omega), ha, Nat.add_sub_cancel_left]

/-- Settles O23. -/
theorem onlyTheUnusableRangeIsUnmapped : Obligations.OnlyTheUnusableRangeIsUnmapped := Bus.map_eq_none_iff

/-- Settles O24: each row is `Bus.map_eq` for its region; the fixed regions show bank 0. -/
theorem mapIsTheAddressTable : Obligations.MapIsTheAddressTable := by
  intro b a
  have row (g : Region) (hfirst : g.first ≤ a.toNat) (hlast : a.toNat ≤ g.first + g.size - 1) :
      b.map a = g.slot (b.bankOf g) (a.toNat - g.first) := by
    refine b.map_eq a g hfirst ?_
    have hsize : 0 < g.size := by cases g <;> decide
    omega
  have fixed (g : Region) (arr : ArrayId) (harr : g.array = some arr) (hbank : b.bankOf g = 0)
      (hfirst : g.first ≤ a.toNat) (hlast : a.toNat ≤ g.first + g.size - 1) :
      b.map a = some (arr, a.toNat - g.first) := by
    rw [row g hfirst hlast, Region.slot, harr, hbank, Nat.zero_mul, Nat.zero_add]
  exact ⟨fixed .rom0 .rom rfl rfl (Nat.zero_le _), row .romx, fixed .vram .vram rfl rfl, fixed .eram .eram rfl rfl,
    fixed .wram0 .wram rfl rfl, row .wramx, fixed .echo0 .wram rfl rfl, row .echox, fixed .oam .oam rfl rfl,
    row .unusable, fixed .io .io rfl rfl, fun h => fixed .hram .hram rfl rfl h (Nat.le_of_lt_succ a.isLt),
    b.map_eq 0xFFFF .hram (by decide) (by decide)⟩

/-- Two windows onto the same array at the same stride and on the same bank show the same byte at the same offset (R54). -/
theorem Bus.map_eq_of_same_window (b : Bus) {g g' : Region} (harr : g.array = g'.array) (hstride : g.stride = g'.stride)
    (hbank : b.bankOf g = b.bankOf g') {k : Nat} (hk : k < g.size) (hk' : k < g'.size) :
    b.map (BitVec.ofNat 16 (g.first + k)) = b.map (BitVec.ofNat 16 (g'.first + k)) := by
  rw [b.map_first_add g hk, b.map_first_add g' hk', Region.slot, Region.slot, harr, hstride, hbank]

/-- Settles O25: each pair of windows shows one array at one stride and, by the clause's premise, on one bank. -/
theorem echoWindowsNameTheSameByte : Obligations.EchoWindowsNameTheSameByte := by
  refine fun b => ⟨fun k hk => ?_, fun k hk => ?_, fun hbank k hk => ?_, fun hbank k hk => ⟨?_, ?_, fun hk' => ?_⟩⟩
  · exact b.map_eq_of_same_window (g := .echo0) (g' := .wram0) rfl rfl rfl (Nat.lt_succ_of_le hk) (Nat.lt_succ_of_le hk)
  · exact b.map_eq_of_same_window (g := .echox) (g' := .wramx) rfl rfl rfl (Nat.lt_succ_of_le hk)
      (by simp only [Region.size]; omega)
  · have h := b.map_eq_of_same_window (g := .romx) (g' := .rom0) rfl rfl hbank (Nat.lt_succ_of_le hk) (Nat.lt_succ_of_le hk)
    rwa [show Region.first .rom0 + k = k from Nat.zero_add k] at h
  · exact b.map_eq_of_same_window (g := .wramx) (g' := .wram0) rfl rfl hbank (Nat.lt_succ_of_le hk) (Nat.lt_succ_of_le hk)
  · exact b.map_eq_of_same_window (g := .echo0) (g' := .wram0) rfl rfl rfl (Nat.lt_succ_of_le hk) (Nat.lt_succ_of_le hk)
  · exact b.map_eq_of_same_window (g := .echox) (g' := .wram0) rfl rfl hbank hk' (Nat.lt_succ_of_le hk)

/-! ## Bank switches (R55, R58, R59) -/

/-- The slots of a region whose bank is the same are the same (R32). -/
theorem Bus.map_eq_of_bankOf_eq {b b' : Bus} {a : Word} (h : b.bankOf (regionOf a) = b'.bankOf (regionOf a)) :
    b.map a = b'.map a := by
  simp only [Bus.map, h]

theorem Bus.array_set_romBank (b : Bus) (n : Nat) (arr : ArrayId) :
    Bus.array { b with romBank := n } arr = b.array arr := by cases arr <;> rfl

theorem Bus.array_set_wramBank (b : Bus) (n : Nat) (arr : ArrayId) :
    Bus.array { b with wramBank := n } arr = b.array arr := by cases arr <;> rfl

/-- A ROM bank index rewrites the slots of its window and no other (R55, R58). -/
theorem Bus.map_set_romBank (b : Bus) (n : Nat) (a : Word) :
    Bus.map { b with romBank := n } a =
      if 0x4000 ≤ a.toNat ∧ a.toNat ≤ 0x7FFF then some (.rom, n * 0x4000 + (a.toNat - 0x4000)) else b.map a := by
  have hbounds := regionOf_bounds a
  split
  · next ha => exact Bus.map_eq _ a .romx ha.1 (Nat.lt_succ_of_le ha.2)
  · next ha =>
    refine Bus.map_eq_of_bankOf_eq ?_
    generalize regionOf a = g at hbounds
    cases g
    case romx => simp only [Region.first, Region.size] at hbounds; omega
    all_goals rfl

/-- A working-RAM bank index rewrites the slots of its window and of that window's echo, and no other (R54, R55, R58). -/
theorem Bus.map_set_wramBank (b : Bus) (n : Nat) (a : Word) :
    Bus.map { b with wramBank := n } a =
      if 0xD000 ≤ a.toNat ∧ a.toNat ≤ 0xDFFF then some (.wram, n * 0x1000 + (a.toNat - 0xD000))
      else if 0xF000 ≤ a.toNat ∧ a.toNat ≤ 0xFDFF then some (.wram, n * 0x1000 + (a.toNat - 0xF000))
      else b.map a := by
  have hbounds := regionOf_bounds a
  split_ifs with hwin hecho
  · exact Bus.map_eq _ a .wramx hwin.1 (Nat.lt_succ_of_le hwin.2)
  · exact Bus.map_eq _ a .echox hecho.1 (Nat.lt_succ_of_le hecho.2)
  · refine Bus.map_eq_of_bankOf_eq ?_
    generalize regionOf a = g at hbounds
    cases g
    case wramx | echox => simp only [Region.first, Region.size] at hbounds; omega
    all_goals rfl

/-- Settles O29: a switch by the two `Bus.map_set_` lemmas; every other move stores alone, and stores keep the banks. -/
theorem bankSwitchRewritesItsWindowOnly : Obligations.BankSwitchRewritesItsWindowOnly := by
  intro s n
  refine ⟨fun hn => ⟨{ s.bus with romBank := n }, if_pos hn, rfl, rfl, s.bus.array_set_romBank n, s.bus.map_set_romBank n,
      fun hback => if_pos hback⟩, fun hn => if_neg (Nat.not_lt.mpr hn),
    fun hn => ⟨{ s.bus with wramBank := n }, if_pos hn, rfl, rfl, s.bus.array_set_wramBank n, s.bus.map_set_wramBank n,
      fun hback => if_pos hback⟩, fun hn => if_neg (Nat.not_lt.mpr hn), fun m t hm h => ?_⟩
  obtain ⟨as, hst⟩ := applyMove_storesAt h hm
  obtain ⟨hrom, hwram⟩ := hst.bus.banks
  exact Bus.map_congr hrom hwram

end Sys2Proof.Machine
end

section
/-! SUPPORT. The rules of the bus accesses, and what they leave unchanged: the memory frame of the instructions, the bytes behind
a bank that is switched away and back, and the unusable range (R54, R55, R60, R61, R69). -/

namespace Sys2Proof.Machine

open Sys2Proof.Spec

/-! ## Unmapped slots (R60, R61) -/

/-- An unmapped slot reads 0 (R60). -/
theorem Bus.byteAt_of_unmapped {b : Bus} {a : Word} (h : b.map a = none) : b.byteAt a = 0 := by
  rw [Bus.byteAt, h]; rfl

/-- A store to an unmapped slot is discarded (R61). -/
theorem Bus.store_of_unmapped {b : Bus} {a : Word} (h : b.map a = none) (v : Byte) : b.store a v = b := by
  rw [Bus.store, h]

/-- An access to an unmapped slot is recorded (R271). -/
theorem Bus.accessEvents_of_unmapped {b : Bus} {a : Word} (h : b.map a = none) (k : AccessKind) :
    b.accessEvents k a = [.unmappedAccess k a] := if_pos h

/-! ## The two accesses (R60, R61) -/

/-- Settles O26: `State.busRead_eq`, with the byte of the slot written out. -/
theorem busReadFollowsItsRule : Obligations.BusReadFollowsItsRule := by
  intro s a
  rw [State.busRead_eq]
  refine ⟨?_, rfl⟩
  rw [Bus.byteAt]
  cases s.bus.map a <;> rfl

/-- Settles O27: a bus write is one store, and the laws of a store say what each byte of each array and of the map becomes. -/
theorem busWriteFollowsItsRule : Obligations.BusWriteFollowsItsRule := by
  intro s a v ⟨_, _, _, hwf⟩
  rw [State.busWrite_bus]
  refine ⟨s.busWrite_eq a v, Bus.array_store hwf a v, fun a' => ⟨Bus.map_store .., fun h => ?_, fun h => ?_⟩,
    fun h => Bus.store_of_unmapped h v⟩
  · rw [Bus.byteAt_store hwf]; exact if_pos h
  · rw [Bus.byteAt_store hwf]; exact if_neg h

/-! ## The memory frame (R54, R61) -/

/-- An address that shows none of the bytes stored to reads as before. -/
theorem Bus.Stored.byteAt_eq {s : State} {as : List Word} {b' : Bus} (h : Bus.Stored s.bus as b') (hi : s.Inv) {a' : Word}
    (hne : ∀ a ∈ as, ¬ sameByte s.bus a a') : b'.byteAt a' = s.bus.byteAt a' := by
  generalize hb : s.bus = b at h
  induction h generalizing s with
  | nil b => rfl
  | @cons b b' a as v _ ih =>
    subst hb
    obtain ⟨-, -, -, hwf⟩ := id hi
    obtain ⟨ha, has⟩ := List.forall_mem_cons.mp hne
    have hst : s.StoresAt [a] (s.setBus (s.bus.store a v)) := .of_store v rfl rfl
    calc b'.byteAt a' = (s.bus.store a v).byteAt a' := ih (hst.inv hi) (by simpa [sameByte] using has) rfl
      _ = s.bus.byteAt a' := by rw [Bus.byteAt_store hwf]; exact if_neg ha

/-- Settles O16: an instruction changes memory only by one store at each of its `storeAddresses`. -/
theorem onlyStoredBytesChange : Obligations.OnlyStoredBytesChange :=
  fun _ _ _ hi h _ hne => (exec_storesAt h).bus.byteAt_eq hi hne

/-! ## A bank switched away and back (R55) -/

/-- The byte of a slot depends on the arrays alone (R53). -/
theorem Bus.byteOfSlot_congr {b b' : Bus} (h : ∀ arr, b.array arr = b'.array arr) (x : Slot) :
    b.byteOfSlot x = b'.byteOfSlot x := by
  cases x with
  | none => rfl
  | some q => simp only [Bus.byteOfSlot, h]

/-- What a store makes of the byte of any slot, one that the map shows or not (R61). -/
theorem Bus.byteOfSlot_store {p : Params} {b : Bus} (h : b.arraysWf p = true) (a : Word) (v : Byte) (x : Slot) :
    (b.store a v).byteOfSlot x = if b.map a = x ∧ b.map a ≠ none then v else b.byteOfSlot x := by
  cases x with
  | none => simp [Bus.byteOfSlot]
  | some q =>
    have hsome : b.map a = some q ∧ b.map a ≠ none ↔ b.map a = some q :=
      and_iff_left_of_imp fun h => h ▸ Option.some_ne_none q
    simp only [Bus.byteOfSlot, Bus.array_store h, hsome]

/-- Between `b` and `b'`, which have the same map, a byte is stored in `b₁`, whose map may be another. -/
theorem Bus.byteAt_of_store_under_other_map {p : Params} {b b₁ b' : Bus} {a a' : Word} {v : Byte}
    (hwf : b.arraysWf p = true) (harr : ∀ arr, b₁.array arr = b.array arr)
    (harr' : ∀ arr, b'.array arr = (b₁.store a v).array arr) (hmap : b'.map a' = b.map a') :
    b'.byteAt a' = if b₁.map a = b.map a' ∧ b₁.map a ≠ none then v else b.byteAt a' := by
  have hwf₁ : b₁.arraysWf p = true := Bus.arraysWf_of_array fun arr => by rw [harr]; exact Bus.array_wf hwf arr
  rw [Bus.byteAt, hmap, Bus.byteOfSlot_congr harr', Bus.byteOfSlot_store hwf₁, Bus.byteOfSlot_congr harr, Bus.byteAt]

/-- A ROM switch leaves the arrays and the other bank index (R58). -/
theorem State.mapRomBank_frame {s t : State} {n : Nat} (h : s.mapRomBank n = .next t) :
    (∀ arr, t.bus.array arr = s.bus.array arr) ∧ t.bus.romBank = n ∧ t.bus.wramBank = s.bus.wramBank := by
  obtain ⟨-, rfl⟩ := State.mapRomBank_next h
  exact ⟨s.bus.array_set_romBank n, rfl, rfl⟩

/-- A working-RAM switch leaves the arrays and the other bank index (R58). -/
theorem State.mapWramBank_frame {s t : State} {n : Nat} (h : s.mapWramBank n = .next t) :
    (∀ arr, t.bus.array arr = s.bus.array arr) ∧ t.bus.wramBank = n ∧ t.bus.romBank = s.bus.romBank := by
  obtain ⟨-, rfl⟩ := State.mapWramBank_next h
  exact ⟨s.bus.array_set_wramBank n, rfl, rfl⟩

/-- Settles O30: after the switch back both bank indices are the old ones, and only the store has changed an array. -/
theorem switchingBackShowsTheOldBytes : Obligations.SwitchingBackShowsTheOldBytes := by
  refine ⟨fun s t u v n a x ⟨_, _, _, hwf⟩ ht hu hv a' => ?_, fun s t u v n a x ⟨_, _, _, hwf⟩ ht hu hv a' => ?_⟩
  · obtain rfl := Host.Outcome.next.inj hu
    obtain ⟨harr, -, hwram⟩ := State.mapRomBank_frame ht
    obtain ⟨harr', hrom', hwram'⟩ := State.mapRomBank_frame hv
    have hmap : v.bus.map a' = s.bus.map a' := Bus.map_congr hrom' (by simp [hwram', hwram]) a'
    exact ⟨hmap, Bus.byteAt_of_store_under_other_map hwf harr (fun arr => by rw [harr', State.busWrite_bus]) hmap⟩
  · obtain rfl := Host.Outcome.next.inj hu
    obtain ⟨harr, -, hrom⟩ := State.mapWramBank_frame ht
    obtain ⟨harr', hwram', hrom'⟩ := State.mapWramBank_frame hv
    have hmap : v.bus.map a' = s.bus.map a' := Bus.map_congr (by simp [hrom', hrom]) hwram' a'
    exact ⟨hmap, Bus.byteAt_of_store_under_other_map hwf harr (fun arr => by rw [harr', State.busWrite_bus]) hmap⟩

/-! ## The unusable range (R69) -/

theorem State.r16stkWrite_eq_stackWrite (s : State) (p : R16Stk) (v : Word) : s.r16stkWrite p v = stackWrite p v s := by
  cases p
  case af => exact congrArg (State.setFlags _) (Flags.unpack_loByte v)
  all_goals rfl

/-- An opcode fetched from an unmapped address is that of `NOP` (R69 a). -/
theorem step_of_unmapped {s : State} (h : s.bus.map s.pc = none) :
    step s = .next { s with pc := s.pc + 1, cycles := 1, events := s.events ++ [.unmappedAccess .read s.pc] } := by
  have hnop : s.Next .nop := ⟨_, by rw [Bus.byteAt_of_unmapped h]; rfl⟩
  have hevents : fetchEvents 1 s.pc = [.unmappedAccess .read s.pc] := by
    rw [fetchEvents, ← s.bus.accessEvents_eq, Bus.accessEvents, if_pos h]; rfl
  rw [hnop.step_eq, ← hevents]
  rfl

/-- `INC [HL]` on an unmapped address: 0 + 1, and the result is lost (R69 c). -/
theorem exec_incR8_mHL_of_unmapped {s : State} (h : s.bus.map s.r.hl = none) :
    exec (.incR8 .mHL) s = .next { s with
      f := { z := false, n := false, h := false, c := s.f.c }, cycles := s.cycles + 2
      events := s.events ++ [.unmappedAccess .read s.r.hl, .unmappedAccess .write s.r.hl] } := by
  simp [exec, execIncR8, State.r8Read, State.busRead_eq, State.incDecFinish_eq, State.r8Write, State.busWrite_eq, add8,
    Bus.byteAt_of_unmapped h, Bus.accessEvents_of_unmapped h, Bus.store_of_unmapped h]

/-- `PUSH` to two unmapped addresses loses both bytes (R69 d). -/
theorem exec_pushR16stk_of_unmapped {s : State} (p : R16Stk) (h₁ : s.bus.map (s.sp - 1) = none)
    (h₂ : s.bus.map (s.sp - 2) = none) :
    exec (.pushR16stk p) s = .next { s with
      sp := s.sp - 2, cycles := s.cycles + 3
      events := s.events ++ [.unmappedAccess .write (s.sp - 1), .unmappedAccess .write (s.sp - 2)] } := by
  have hsp : s.sp - 2 = s.sp - 1 - 1 := (BitVec.sub_sub s.sp 1 1).symm
  rw [hsp] at h₂ ⊢
  simp only [exec, execPushR16stk, State.pushByte_eq, Bus.store_of_unmapped h₁, Bus.store_of_unmapped h₂,
    Bus.accessEvents_of_unmapped h₁, Bus.accessEvents_of_unmapped h₂, List.append_assoc]
  rfl

/-- `POP` from two unmapped addresses gives zeros (R69 d). -/
theorem exec_popR16stk_of_unmapped {s : State} (p : R16Stk) (h₁ : s.bus.map s.sp = none)
    (h₂ : s.bus.map (s.sp + 1) = none) :
    exec (.popR16stk p) s = .next (stackWrite p 0 { s with
      sp := s.sp + 2, cycles := s.cycles + 2
      events := s.events ++ [.unmappedAccess .read s.sp, .unmappedAccess .read (s.sp + 1)] }) := by
  have hsp : s.sp + 2 = s.sp + 1 + 1 := (BitVec.add_assoc s.sp 1 1).symm
  rw [hsp]
  simp only [exec, execPopR16stk, State.popByte_eq, State.r16stkWrite_eq_stackWrite, Bus.byteAt_of_unmapped h₁,
    Bus.byteAt_of_unmapped h₂, Bus.accessEvents_of_unmapped h₁, Bus.accessEvents_of_unmapped h₂, List.append_assoc]
  rfl

/-- Settles O31: every address named is unmapped, by its range. -/
theorem unusableRangeReadsZeroAndDropsWrites : Obligations.UnusableRangeReadsZeroAndDropsWrites := by
  have unmapped (b : Bus) {a : Word} (hlo : 0xFEA0 ≤ a.toNat) (hhi : a.toNat ≤ 0xFEFF) : b.map a = none :=
    b.map_eq_none_iff a |>.mpr ⟨hlo, hhi⟩
  refine ⟨fun s hlo hhi => step_of_unmapped (unmapped _ hlo hhi),
    fun b a hlo hhi => Bus.byteAt_of_unmapped (unmapped b hlo hhi),
    fun s hlo hhi => exec_incR8_mHL_of_unmapped (unmapped _ hlo hhi),
    fun s p hlo hhi => exec_pushR16stk_of_unmapped p (unmapped _ ?_ ?_) (unmapped _ ?_ ?_),
    fun s p hlo hhi => exec_popR16stk_of_unmapped p (unmapped _ hlo (by omega)) (unmapped _ ?_ ?_)⟩
  all_goals bv_omega

end Sys2Proof.Machine
end

section
/-! SUPPORT. What a step makes of its cycle count, against R320's table: each shared operation's cycles, then each instruction's;
and what the next step makes of a byte that a step stored (R75). -/

namespace Sys2Proof.Machine

open Sys2Proof.Spec

/-! ## Cycles of the shared operations (R60, R61, R124) -/

@[simp] theorem State.busRead_snd_cycles (s : State) (a : Word) : (s.busRead a).2.cycles = s.cycles + 1 := by
  rw [State.busRead_eq]
@[simp] theorem State.busWrite_cycles (s : State) (a : Word) (v : Byte) : (s.busWrite a v).cycles = s.cycles + 1 := by
  rw [State.busWrite_eq]

@[simp] theorem State.r8Read_snd_cycles (s : State) (i : R8) : (s.r8Read i).2.cycles = s.cycles + memCost i := by
  cases i
  case mHL => exact s.busRead_snd_cycles s.r.hl
  all_goals rfl
@[simp] theorem State.r8Write_cycles (s : State) (i : R8) (v : Byte) : (s.r8Write i v).cycles = s.cycles + memCost i := by
  cases i
  case mHL => exact s.busWrite_cycles s.r.hl v
  all_goals rfl

@[simp] theorem State.r16Write_cycles (s : State) (p : R16) (v : Word) : (s.r16Write p v).cycles = s.cycles := by
  cases p <;> rfl
@[simp] theorem State.r16stkWrite_cycles (s : State) (p : R16Stk) (v : Word) : (s.r16stkWrite p v).cycles = s.cycles := by
  cases p <;> rfl
@[simp] theorem State.r16mem_snd_cycles (s : State) (p : R16Mem) : (s.r16mem p).2.cycles = s.cycles := by
  cases p <;> rfl
@[simp] theorem State.pushByte_cycles (s : State) (v : Byte) : (s.pushByte v).cycles = s.cycles + 1 := by
  rw [State.pushByte_eq]
@[simp] theorem State.popByte_snd_cycles (s : State) : s.popByte.2.cycles = s.cycles + 1 := by rw [State.popByte_eq]

@[simp] theorem State.aluAdd_cycles (s : State) (x : Byte) (c : Bool) : (s.aluAdd x c).cycles = s.cycles := rfl
@[simp] theorem State.aluSub_cycles (s : State) (x : Byte) (c : Bool) : (s.aluSub x c).cycles = s.cycles := rfl
@[simp] theorem State.aluLogic_cycles (s : State) (v : Byte) (h : Bool) : (s.aluLogic v h).cycles = s.cycles := rfl
@[simp] theorem State.incDecFinish_cycles (s : State) (i : R8) (q : Byte × Flags) :
    (s.incDecFinish i q).cycles = s.cycles + memCost i := State.r8Write_cycles s i q.1

/-! ## Cycles of an instruction and of a step (R64, R320) -/

/-- An instruction of class A or I takes one cycle, for its opcode (R210, R320). -/
theorem cycleCount_of_absent_or_noInstruction {i : Instr} (h : i.opClass = .absent ∨ i.opClass = .noInstruction)
    (p : Params) : cycleCount p i = 1 := by
  rcases h with h | h <;> cases i <;> cases h <;> rfl

/-- An instruction adds its tabled cycles, less those of fetching its bytes (R64, R320). -/
theorem exec_cycles {i : Instr} {s t : State} (hwf : i.wellFormed = true) (h : exec i s = .next t) :
    i.length + t.cycles = s.cycles + cycleCount s.params i := by
  revert hwf
  refine exec_next_cases h (fun hc hwf => ?_) (fun hc _ => ?unknown)
    (P := fun i s t => i.wellFormed = true → i.length + t.cycles = s.cycles + cycleCount s.params i)
  case unknown =>
    rw [length_of_absent_or_noInstruction hc, cycleCount_of_absent_or_noInstruction hc, State.raiseUnknownOpcode_cycles,
      Nat.add_comm]
  cases i <;> cases hc
  case ldR8R8 dst src =>
    obtain ⟨⟨rfl, rfl⟩, -⟩ | ⟨-, rfl⟩ := execLdR8R8_next h
    · cases hwf
    · simp [Instr.length, immediates, cycleCount]; omega
  all_goals
    obtain rfl := Host.Outcome.next.inj h
    simp [Instr.length, immediates, cycleCount]
  all_goals omega

/-- The instruction at PC is well-formed (R96, R100). -/
theorem State.Next.wellFormed {s : State} {i : Instr} (hi : s.Next i) : i.wellFormed = true := by
  obtain ⟨row, b2, b3, hrow, rfl⟩ := hi.exists_build
  exact (rowOf_build hrow b2 b3).2

/-- Settles O13: the fetch charges one cycle for each byte of the instruction, `exec` the rest. -/
theorem stepReturnsTheTabledCycles : Obligations.StepReturnsTheTabledCycles := by
  intro s t i rest hdec h
  have hi : s.Next i := ⟨rest, hdec⟩
  rw [hi.step_eq] at h
  exact Nat.add_left_cancel (exec_cycles hi.wellFormed h)

/-! ## A stored byte is fetched by the next step (R75) -/

/-- A byte that is an instruction on its own is that instruction whatever bytes follow, and has its length (R90). -/
theorem State.Next.of_decode_singleton {s : State} {i : Instr} {rest : List Byte}
    (h : decode [s.bus.byteAt s.pc] = .ok (i, rest)) : s.Next i ∧ i.length = 1 := by
  obtain ⟨row, hrow⟩ := exists_rowOf (s.bus.byteAt s.pc)
  have hdec := decode_of_rowOf hrow (s.bus.byteAt (s.pc + 1)) (s.bus.byteAt (s.pc + 2)) []
  have hl : row.length = 1 := by
    rcases rowOf_length _ _ hrow with hl | hl | hl
    · exact hl
    all_goals simp [decode, hrow, hl] at h
  rw [hl] at hdec
  simp only [decode, hrow, hl] at h
  cases h
  exact ⟨⟨_, hdec⟩, (rowOf_build_length hrow 0 0).trans hl⟩

/-- The opcode of `LD [HL],r8` (R93). -/
theorem decode_ld_mHL {src : R8} (hsrc : src ≠ .mHL) : decode [0b01110#5 ++ src.code] = .ok (.ldR8R8 .mHL src, []) := by
  cases src
  case mHL => exact absurd rfl hsrc
  all_goals rfl

/-- Settles O22: the store leaves the register's byte at HL, which is PC after the step. -/
theorem storedByteIsFetchedNext : Obligations.StoredByteIsFetchedNext := by
  intro s src i rest ⟨_, _, _, hwf⟩ hsrc hop hhl hmap hdec
  obtain ⟨hload, hlength⟩ := State.Next.of_decode_singleton (hop ▸ decode_ld_mHL hsrc)
  have hstep : step s = .next ((afterFetch 1 s).busWrite s.r.hl (operand s src)) := by
    rw [hload.step_eq, hlength]
    cases src
    case mHL => exact absurd rfl hsrc
    all_goals rfl
  generalize ht : (afterFetch 1 s).busWrite s.r.hl (operand s src) = t at hstep
  have hpc : t.pc = s.pc + 1 := by rw [← ht, State.busWrite_eq]; rfl
  have hbyte : t.bus.byteAt t.pc = operand s src := by
    rw [hpc, ← hhl, ← ht, State.busWrite_bus]
    exact (Bus.byteAt_store hwf s.r.hl s.r.hl _).trans (if_pos ⟨rfl, hmap⟩)
  obtain ⟨hnext, hlength'⟩ := State.Next.of_decode_singleton (hbyte ▸ hdec)
  exact ⟨t, hstep, hpc, hlength' ▸ hnext.step_eq⟩

end Sys2Proof.Machine
end

section
/-! SUPPORT. What a construction gives: the bytes of the image in the ROM array (R301). -/

namespace Sys2Proof.Machine

/-- The contents made from a list of bytes read as that list (R301). -/
theorem Memory.read_ofBytesFrom (vs : List Byte) (k j : Nat) :
    Memory.read (k + j) (Memory.ofBytesFrom k vs) = vs.getD j Memory.unlisted := by
  induction vs generalizing k j with
  | nil => rfl
  | cons v vs ih =>
    rw [Memory.ofBytesFrom]
    cases j with
    | zero =>
      split
      · next hv =>
        exact (Memory.read_of_lt (Memory.wfFrom_ofBytesFrom vs (k + 1)) (Nat.lt_succ_self k)).trans hv.symm
      · exact Memory.read_cons_self k v _
    | succ j =>
      have hrest := ih (k + 1) j
      rw [Nat.succ_add_eq_add_succ] at hrest
      split
      · exact hrest
      · rw [Memory.read_cons_of_ne (by omega)]
        exact hrest

theorem Memory.read_ofBytes (vs : List Byte) (k : Nat) : Memory.read k (Memory.ofBytes vs) = vs.getD k Memory.unlisted := by
  rw [Memory.ofBytes, ← Memory.read_ofBytesFrom vs 0 k, Nat.zero_add]

/-- Settles O56: every field but the ROM contents is read off the construction. -/
theorem constructionFollowsItsRule : Obligations.ConstructionFollowsItsRule := by
  refine fun image u => ⟨fun hsize => if_pos hsize, fun hmin hmax => ⟨_, if_neg (by omega), fun k _ => ?_, ?_⟩⟩
  · exact Memory.read_ofBytes image k
  · and_intros <;> rfl

end Sys2Proof.Machine
end

section
/-! SUPPORT. The decoder and the encoder are inverses of each other, through the row that both go by (R90, R93, R97, R105); the
five-strategy search finds what the table holds (R95, R98, R123). -/

namespace Sys2Proof

/-! ## What a row makes of the bytes after the opcode -/

/-- What a row builds depends on no byte after those that it fetches (R90). -/
theorem rowOf_build_unfetched {op : Byte} {row : OpcodeRow} (h : rowOf op = some row) (b2 b3 : Byte) :
    (row.length ≤ 2 → row.build op b2 b3 = row.build op b2 0) ∧
    (row.length ≤ 1 → row.build op b2 b3 = row.build op 0 0) := by
  apply rowOf_of_forall h (q := fun r => (r.length ≤ 2 → r.build op b2 b3 = r.build op b2 0) ∧
    (r.length ≤ 1 → r.build op b2 b3 = r.build op 0 0))
  simp [opcodeTable, opcodeRowsBlock0, opcodeRowsBlocks12, opcodeRowsBlock3a, opcodeRowsBlock3b, opcodeRowsNoInstruction]

/-- An immediate word is taken apart into the bytes it was put together from, low byte first (R94). -/
theorem immediates_ldR16Imm16_append (p : R16) (lo hi : Byte) : immediates (.ldR16Imm16 p (hi ++ lo)) = [lo, hi] :=
  congrArg₂ (fun x y => [x, y]) (Machine.loByte_wordOf hi lo) (Machine.hiByte_wordOf hi lo)

/-- The immediates of what a row builds are the bytes that the row fetches (R90, R94). -/
theorem rowOf_build_immediates {op : Byte} {row : OpcodeRow} (h : rowOf op = some row) (b2 b3 : Byte) :
    immediates (row.build op b2 b3) = [b2, b3].take (row.length - 1) := by
  apply rowOf_of_forall h (q := fun r => immediates (r.build op b2 b3) = [b2, b3].take (r.length - 1))
  simp only [opcodeTable, opcodeRowsBlock0, opcodeRowsBlocks12, opcodeRowsBlock3a, opcodeRowsBlock3b,
    opcodeRowsNoInstruction, List.cons_append, List.nil_append, List.forall_mem_cons, immediates_ldR16Imm16_append]
  and_intros <;> simp [immediates]

/-- The bytes of what a row builds are the opcode and the bytes that the row fetches (R90, R93). -/
theorem encode_build {op : Byte} {row : OpcodeRow} (h : rowOf op = some row) (b2 b3 : Byte) :
    encode (row.build op b2 b3) = op :: [b2, b3].take (row.length - 1) := by
  rw [encode, (rowOf_build h b2 b3).1, rowOf_build_immediates h]

/-- What a row builds is decoded from its bytes (R90, R105). -/
theorem decode_encode_build {op : Byte} {row : OpcodeRow} (h : rowOf op = some row) (b2 b3 : Byte) (rest : List Byte) :
    decode (encode (row.build op b2 b3) ++ rest) = .ok (row.build op b2 b3, rest) := by
  obtain ⟨htwo, hone⟩ := rowOf_build_unfetched h b2 b3
  rw [encode_build h]
  rcases rowOf_length _ _ h with hl | hl | hl
  · rw [hone hl.le]
    simp [decode, h, hl]
  · rw [htwo hl.le]
    simp [decode, h, hl]
  · simp [decode, h, hl]

/-- What the decoder reads is what a row builds, and its bytes stand at the front of the list (R90, R105). -/
theorem exists_build_of_decode {bs rest : List Byte} {i : Instr} (h : decode bs = .ok (i, rest)) :
    ∃ op row b2 b3, rowOf op = some row ∧ i = row.build op b2 b3 ∧ encode i ++ rest = bs := by
  cases bs with
  | nil => cases h
  | cons op bs =>
    obtain ⟨row, hrow⟩ := exists_rowOf op
    rcases rowOf_length _ _ hrow with hl | hl | hl
    · simp only [decode, hrow, hl] at h
      cases h
      exact ⟨op, row, 0, 0, hrow, rfl, by simp [encode_build hrow, hl]⟩
    · obtain _ | ⟨n, bs⟩ := bs <;> simp only [decode, hrow, hl] at h <;> cases h
      exact ⟨op, row, n, 0, hrow, rfl, by simp [encode_build hrow, hl]⟩
    · obtain _ | ⟨lo, _ | ⟨hi, bs⟩⟩ := bs <;> simp only [decode, hrow, hl] at h <;> cases h
      exact ⟨op, row, lo, hi, hrow, rfl, by simp [encode_build hrow, hl]⟩

/-! ## Every well-formed instruction is what the row of its opcode builds -/

/-- `RST`'s operand is a bare bit field, so its eight values are gone through here (R226). -/
theorem rowOf_opcode_map_build_rstTgt : ∀ t : BitVec 3,
    (rowOf (opcode (.rstTgt t))).map (fun row => row.build (opcode (.rstTgt t)) 0 0) = some (.rstTgt t) := by
  decide

/-- The row of a well-formed instruction's opcode builds it again from its immediates (R93, R97, R105). -/
theorem rowOf_opcode_map_build {i : Instr} (hi : i.wellFormed = true) :
    (rowOf (opcode i)).map
      (fun row => row.build (opcode i) ((immediates i).getD 0 0) ((immediates i).getD 1 0)) = some i := by
  cases i
  case ldR8R8 dst src =>
    cases dst
    case mHL =>
      cases src
      case mHL => cases hi
      all_goals rfl
    all_goals cases src <;> rfl
  case rstTgt t => exact rowOf_opcode_map_build_rstTgt t
  case ldR16Imm16 p v =>
    conv_rhs => rw [← Machine.wordOf_hiByte_loByte v]
    cases p <;> dsimp only [opcode] <;> rfl
  case ldR8Imm8 r n => cases r <;> dsimp only [opcode] <;> rfl
  case ldR16memA p | ldAR16mem p | incR16 p | decR16 p | addHlR16 p | popR16stk p | pushR16stk p => cases p <;> rfl
  case incR8 r | decR8 r | addAR8 r | adcAR8 r | subAR8 r | sbcAR8 r | andAR8 r | xorAR8 r | orAR8 r | cpAR8 r =>
    cases r <;> rfl
  case jrCcE8 cc | retCc cc | jpCcA16 cc | callCcA16 cc => cases cc <;> rfl
  all_goals
    dsimp only [opcode]
    rfl

/-! ## The round trips -/

/-- Settles O1: the instruction is what the row of its opcode builds, and that row decodes the bytes. -/
theorem decodeOfEncodeIsIdentity : Obligations.DecodeOfEncodeIsIdentity := by
  intro i rest hi
  obtain ⟨row, hrow, hbuild⟩ := Option.map_eq_some_iff.mp (rowOf_opcode_map_build hi)
  rw [← hbuild]
  exact decode_encode_build hrow _ _ rest

/-- Settles O2: only what a row builds is decoded, and a row builds well-formed instructions alone. -/
theorem encodeOfDecodeIsIdentity : Obligations.EncodeOfDecodeIsIdentity := by
  intro bs rest i h
  obtain ⟨op, row, b2, b3, hrow, rfl, hbytes⟩ := exists_build_of_decode h
  exact ⟨(rowOf_build hrow b2 b3).2, hbytes⟩

/-- Settles O3: the length is that of the opcode's row. -/
theorem opcodeByteAloneDecidesLength : Obligations.OpcodeByteAloneDecidesLength := by
  intro op
  obtain ⟨row, hrow⟩ := exists_rowOf op
  have hl := rowOf_length _ _ hrow
  refine ⟨row.length, by omega, by omega, fun b2 b3 rest => ⟨row.build op b2 b3, ?_, rowOf_build_length hrow b2 b3⟩⟩
  have hdec := decode_encode_build hrow b2 b3 ([b2, b3].drop (row.length - 1) ++ rest)
  rw [encode_build hrow] at hdec
  rcases hl with hl | hl | hl <;> simpa [hl] using hdec

/-- Settles O4: each word is the bytes of the instruction it stands for. -/
theorem writtenOutWordsDecode : Obligations.WrittenOutWordsDecode :=
  have decodes := decodeOfEncodeIsIdentity
  ⟨decodes .nop [] rfl, decodes (.addAImm8 0x7F) [] rfl, decodes (.sbcAR8 .h) [] rfl, decodes (.incR8 .mHL) [] rfl,
    decodes (.addHlR16 .sp) [] rfl, decodes (.ldHlSpE8 0xFE) [] rfl, decodes (.ldR8R8 .mHL .b) [] rfl,
    decodes (.ldR16memA .hlDec) [] rfl, decodes (.ldR16Imm16 .hl 0x1234) [] rfl, decodes (.pushR16stk .af) [] rfl,
    decodes .halt [] rfl, decodes .cpAImm8 [0x10] rfl, decodes .illegalDD [] rfl⟩

/-- Settles O6, opcode by opcode; the values of a class are counted in two halves of the opcode range, so that neither count
nests too deep for the evaluation. -/
theorem tableRowsDisjointButForHalt : Obligations.TableRowsDisjointButForHalt := by
  refine ⟨by decide, rfl, fun c => ?_⟩
  rw [show 256 = 128 + 128 from rfl, List.range_add, List.filter_append, List.length_append]
  cases c
  case present => decide
  case absent => decide
  case noInstruction => decide
  case unnamed => decide

/-! ## The five-strategy search

Handlers and rows carry the immediates along without looking at them. So the search and the table need to be compared at
immediates 0 alone, opcode by opcode. -/

/-- The instruction with the bytes `lo` and `hi` after its opcode. -/
def Instr.withImmediates (lo hi : Byte) : Instr → Instr
  | .ldR16Imm16 p _ => .ldR16Imm16 p (hi ++ lo)
  | .ldR8Imm8 r _ => .ldR8Imm8 r lo
  | .addAImm8 _ => .addAImm8 lo
  | .adcAImm8 _ => .adcAImm8 lo
  | .subAImm8 _ => .subAImm8 lo
  | .sbcAImm8 _ => .sbcAImm8 lo
  | .andAImm8 _ => .andAImm8 lo
  | .xorAImm8 _ => .xorAImm8 lo
  | .orAImm8 _ => .orAImm8 lo
  | .ldhA8A _ => .ldhA8A lo
  | .ldhAA8 _ => .ldhAA8 lo
  | .addSpE8 _ => .addSpE8 lo
  | .ldHlSpE8 _ => .ldHlSpE8 lo
  | i => i

theorem rowOf_build_withImmediates {op : Byte} {row : OpcodeRow} (h : rowOf op = some row) (b2 b3 lo hi : Byte) :
    (row.build op b2 b3).withImmediates lo hi = row.build op lo hi := by
  apply rowOf_of_forall h (q := fun r => (r.build op b2 b3).withImmediates lo hi = r.build op lo hi)
  simp [opcodeTable, opcodeRowsBlock0, opcodeRowsBlocks12, opcodeRowsBlock3a, opcodeRowsBlock3b, opcodeRowsNoInstruction,
    Instr.withImmediates]

theorem exactMatch_map_withImmediates (op n hi : Byte) :
    (exactMatch op 0).map (Instr.withImmediates n hi) = exactMatch op n := by
  unfold exactMatch
  split <;> rfl

theorem nibbleMatch_map_withImmediates (block pair : BitVec 2) (nib : BitVec 4) (n hi : Byte) :
    (nibbleMatch block nib pair 0 0).map (Instr.withImmediates n hi) = nibbleMatch block nib pair n hi := by
  unfold nibbleMatch
  split <;> rfl

theorem primaryMatch_map_withImmediates (block : BitVec 2) (hi3 lo3 : BitVec 3) (n hi : Byte) :
    (primaryMatch block hi3 lo3).map (Instr.withImmediates n hi) = primaryMatch block hi3 lo3 := by
  unfold primaryMatch
  split <;> rfl

theorem secondaryMatch_map_withImmediates (block : BitVec 2) (lo3 hi3 : BitVec 3) (n hi : Byte) :
    (secondaryMatch block lo3 hi3 0).map (Instr.withImmediates n hi) = secondaryMatch block lo3 hi3 n := by
  unfold secondaryMatch
  split <;> rfl

theorem dualFallback_map_withImmediates (block : BitVec 2) (hi3 lo3 : BitVec 3) (n hi : Byte) :
    (dualFallback block hi3 lo3).map (Instr.withImmediates n hi) = dualFallback block hi3 lo3 := by
  unfold dualFallback
  split <;> rfl

/-- The search carries the immediates along: which handler it finds is the opcode's alone (R95, R98). -/
theorem strategySearch_map_withImmediates (op n hi : Byte) :
    (strategySearch op 0 0).map (Instr.withImmediates n hi) = strategySearch op n hi := by
  unfold strategySearch
  split
  · rfl
  · simp only [Option.map_or, exactMatch_map_withImmediates, nibbleMatch_map_withImmediates,
      primaryMatch_map_withImmediates, secondaryMatch_map_withImmediates, dualFallback_map_withImmediates]

/-- The search against the table at immediates 0 (R123). -/
theorem rowOf_map_build_eq_strategySearch : ∀ op : Byte,
    (rowOf op).map (fun row => if row.cls = .present ∨ op = 0x76 then some (row.build op 0 0) else none) =
      some (strategySearch op 0 0) := by
  decide

/-- Settles O5: search and table agree at immediates 0, and both carry the immediates along. -/
theorem strategySearchAgreesWithTable : Obligations.StrategySearchAgreesWithTable := by
  intro op n h row hrow
  have hzero := rowOf_map_build_eq_strategySearch op
  rw [hrow, Option.map_some, Option.some_inj] at hzero
  rw [← strategySearch_map_withImmediates, ← hzero]
  split
  · exact congrArg some (rowOf_build_withImmediates hrow 0 0 n h)
  · rfl

end Sys2Proof
end

section
/-! SUPPORT. What a step does to registers, flags, SP, PC and the bus depends on these alone: every shared operation, every
instruction and every step takes two states that agree in them to two that agree (R124). -/

namespace Sys2Proof.Spec

open Sys2Proof.Machine

/-! ## Two states that agree but for `cycles`, conditions and parameters -/

section
variable {s s' : State}

theorem sameCore.r (h : sameCore s s') : s.r = s'.r := let ⟨hr, _⟩ := h; hr
theorem sameCore.f (h : sameCore s s') : s.f = s'.f := let ⟨_, hf, _⟩ := h; hf
theorem sameCore.sp (h : sameCore s s') : s.sp = s'.sp := let ⟨_, _, hsp, _⟩ := h; hsp
theorem sameCore.pc (h : sameCore s s') : s.pc = s'.pc := let ⟨_, _, _, hpc, _⟩ := h; hpc
theorem sameCore.bus (h : sameCore s s') : s.bus = s'.bus := let ⟨_, _, _, _, hbus⟩ := h; hbus

theorem sameCore.setRegs (h : sameCore s s') {r r' : Regs} (hr : r = r') : sameCore (s.setRegs r) (s'.setRegs r') :=
  let ⟨_, hf, hsp, hpc, hbus⟩ := h
  ⟨hr, hf, hsp, hpc, hbus⟩

theorem sameCore.setFlags (h : sameCore s s') {f f' : Flags} (hf : f = f') : sameCore (s.setFlags f) (s'.setFlags f') :=
  let ⟨hr, _, hsp, hpc, hbus⟩ := h
  ⟨hr, hf, hsp, hpc, hbus⟩

theorem sameCore.setSp (h : sameCore s s') {v v' : Word} (hv : v = v') : sameCore (s.setSp v) (s'.setSp v') :=
  let ⟨hr, hf, _, hpc, hbus⟩ := h
  ⟨hr, hf, hv, hpc, hbus⟩

theorem sameCore.setA (h : sameCore s s') {v v' : Byte} (hv : v = v') : sameCore (s.setA v) (s'.setA v') :=
  h.setRegs (by rw [h.r, hv])

/-- Internal cycles, as many as a parameter says, are no part of what agrees (R124). -/
theorem sameCore.internal (h : sameCore s s') (n n' : Nat) : sameCore (s.internal n) (s'.internal n') := h

theorem sameCore.raiseUnknownOpcode (h : sameCore s s') (op : Byte) :
    sameCore (s.raiseUnknownOpcode op) (s'.raiseUnknownOpcode op) := h

theorem sameCore.afterFetch (h : sameCore s s') (n : Nat) : sameCore (afterFetch n s) (afterFetch n s') :=
  let ⟨hr, hf, hsp, hpc, hbus⟩ := h
  ⟨hr, hf, hsp, congrArg (· + BitVec.ofNat 16 n) hpc, hbus⟩

/-! ## The bus and the operands -/

theorem sameCore.busRead (h : sameCore s s') {a a' : Word} (ha : a = a') :
    (s.busRead a).1 = (s'.busRead a').1 ∧ sameCore (s.busRead a).2 (s'.busRead a').2 := by
  obtain ⟨hr, hf, hsp, hpc, hbus⟩ := h
  rw [State.busRead_eq, State.busRead_eq, ha, hbus]
  exact ⟨rfl, hr, hf, hsp, hpc, rfl⟩

theorem sameCore.busWrite (h : sameCore s s') {a a' : Word} {v v' : Byte} (ha : a = a') (hv : v = v') :
    sameCore (s.busWrite a v) (s'.busWrite a' v') := by
  obtain ⟨hr, hf, hsp, hpc, hbus⟩ := h
  rw [State.busWrite_eq, State.busWrite_eq, ha, hv, hbus]
  exact ⟨hr, hf, hsp, hpc, rfl⟩

theorem sameCore.r8Read (h : sameCore s s') (i : R8) :
    (s.r8Read i).1 = (s'.r8Read i).1 ∧ sameCore (s.r8Read i).2 (s'.r8Read i).2 := by
  cases i
  case mHL => exact h.busRead (congrArg Regs.hl h.r)
  all_goals exact ⟨by simp only [State.r8Read, h.r], h⟩

theorem sameCore.r8Write (h : sameCore s s') (i : R8) {v v' : Byte} (hv : v = v') :
    sameCore (s.r8Write i v) (s'.r8Write i v') := by
  cases i
  case mHL => exact h.busWrite (congrArg Regs.hl h.r) hv
  all_goals exact h.setRegs (by rw [h.r, hv])

theorem sameCore.r16Read (h : sameCore s s') (p : R16) : s.r16Read p = s'.r16Read p := by
  cases p <;> simp only [State.r16Read, h.r, h.sp]

theorem sameCore.r16Write (h : sameCore s s') (p : R16) (v : Word) : sameCore (s.r16Write p v) (s'.r16Write p v) := by
  cases p
  case sp => exact h.setSp rfl
  all_goals exact h.setRegs (by rw [h.r])

theorem sameCore.r16stkRead (h : sameCore s s') (p : R16Stk) : s.r16stkRead p = s'.r16stkRead p := by
  cases p <;> simp only [State.r16stkRead, State.af, h.r, h.f]

theorem sameCore.r16stkWrite (h : sameCore s s') (p : R16Stk) {v v' : Word} (hv : v = v') :
    sameCore (s.r16stkWrite p v) (s'.r16stkWrite p v') := by
  subst hv
  cases p
  case af => exact (h.setA rfl).setFlags rfl
  all_goals exact h.setRegs (by rw [h.r])

theorem sameCore.r16mem (h : sameCore s s') (p : R16Mem) :
    (s.r16mem p).1 = (s'.r16mem p).1 ∧ sameCore (s.r16mem p).2 (s'.r16mem p).2 := by
  rw [State.r16mem_eq, State.r16mem_eq, h.r]
  exact ⟨rfl, h.setRegs rfl⟩

theorem sameCore.pushByte (h : sameCore s s') {v v' : Byte} (hv : v = v') : sameCore (s.pushByte v) (s'.pushByte v') :=
  have hsp : s.sp - 1 = s'.sp - 1 := congrArg (· - 1) h.sp
  (h.setSp hsp).busWrite hsp hv

theorem sameCore.popByte (h : sameCore s s') : s.popByte.1 = s'.popByte.1 ∧ sameCore s.popByte.2 s'.popByte.2 :=
  have ⟨hx, hu⟩ := h.busRead h.sp
  ⟨hx, hu.setSp (congrArg (· + 1) hu.sp)⟩

/-! ## Arithmetic and logic -/

theorem sameCore.aluAdd (h : sameCore s s') {x x' : Byte} {c c' : Bool} (hx : x = x') (hc : c = c') :
    sameCore (s.aluAdd x c) (s'.aluAdd x' c') :=
  have hq : add8 s.r.a x c = add8 s'.r.a x' c' := by rw [h.r, hx, hc]
  (h.setA (congrArg Prod.fst hq)).setFlags (congrArg Prod.snd hq)

theorem sameCore.aluSub (h : sameCore s s') {x x' : Byte} {c c' : Bool} (hx : x = x') (hc : c = c') :
    sameCore (s.aluSub x c) (s'.aluSub x' c') :=
  have hq : sub8 s.r.a x c = sub8 s'.r.a x' c' := by rw [h.r, hx, hc]
  (h.setA (congrArg Prod.fst hq)).setFlags (congrArg Prod.snd hq)

theorem sameCore.aluLogic (h : sameCore s s') {v v' : Byte} (hv : v = v') (b : Bool) :
    sameCore (s.aluLogic v b) (s'.aluLogic v' b) :=
  (h.setA hv).setFlags (congrArg (logicFlags b) hv)

theorem sameCore.incDecFinish (h : sameCore s s') (i : R8) {q q' : Byte × Flags} (hq : q = q') :
    sameCore (s.incDecFinish i q) (s'.incDecFinish i q') :=
  (h.r8Write i (congrArg Prod.fst hq)).setFlags (by rw [h.f, hq])

end

end Sys2Proof.Spec

namespace Sys2Proof.Machine

open Sys2Proof.Spec

/-! ## One instruction and one step (R124) -/

/-- An instruction takes two states that agree to two that agree. -/
theorem exec_sameCore {i : Instr} {s s' t t' : State} (h : sameCore s s') (ht : exec i s = .next t)
    (ht' : exec i s' = .next t') : sameCore t t' := by
  revert h ht'
  refine exec_next_cases ht (P := fun i s t => sameCore s s' → exec i s' = .next t' → sameCore t t')
    (fun hc h ht' => ?_) (fun hc h ht' => ?unknown)
  case unknown =>
    rw [exec_of_absent_or_noInstruction hc] at ht'
    obtain rfl := Host.Outcome.next.inj ht'
    exact h.raiseUnknownOpcode _
  cases i <;> cases hc
  case ldR8R8 dst src =>
    obtain ⟨hboth, rfl⟩ | ⟨hboth, rfl⟩ := execLdR8R8_next ht <;>
      obtain ⟨hboth', rfl⟩ | ⟨hboth', rfl⟩ := execLdR8R8_next ht'
    · exact h.raiseUnknownOpcode _
    · exact absurd hboth hboth'
    · exact absurd hboth' hboth
    · obtain ⟨hx, hu⟩ := h.r8Read src
      exact hu.r8Write dst hx
  all_goals
    obtain rfl := Host.Outcome.next.inj ht
    obtain rfl := Host.Outcome.next.inj ht'
  case nop => exact h
  case ldR8Imm8 r n => exact h.r8Write r rfl
  case ldR16Imm16 p v => exact h.r16Write p v
  case ldR16memA p =>
    obtain ⟨ha, hu⟩ := h.r16mem p
    exact hu.busWrite ha (congrArg Regs.a h.r)
  case ldAR16mem p =>
    obtain ⟨ha, hu⟩ := h.r16mem p
    obtain ⟨hx, hu⟩ := hu.busRead ha
    exact hu.setA hx
  case ldhA8A n => exact h.busWrite rfl (congrArg Regs.a h.r)
  case ldhAA8 n =>
    obtain ⟨hx, hu⟩ := h.busRead rfl
    exact hu.setA hx
  case pushR16stk p =>
    have hv := h.r16stkRead p
    exact ((h.pushByte (congrArg hiByte hv)).pushByte (congrArg loByte hv)).internal _ _
  case popR16stk p =>
    obtain ⟨hlo, hu⟩ := h.popByte
    obtain ⟨hhi, hu⟩ := hu.popByte
    exact hu.r16stkWrite p (congrArg₂ wordOf hhi hlo)
  case addAR8 r =>
    obtain ⟨hx, hu⟩ := h.r8Read r
    exact hu.aluAdd hx rfl
  case adcAR8 r =>
    obtain ⟨hx, hu⟩ := h.r8Read r
    exact hu.aluAdd hx (congrArg Flags.c hu.f)
  case subAR8 r =>
    obtain ⟨hx, hu⟩ := h.r8Read r
    exact hu.aluSub hx rfl
  case sbcAR8 r =>
    obtain ⟨hx, hu⟩ := h.r8Read r
    exact hu.aluSub hx (congrArg Flags.c hu.f)
  case andAR8 r | xorAR8 r | orAR8 r =>
    obtain ⟨hx, hu⟩ := h.r8Read r
    exact hu.aluLogic (by rw [hu.r, hx]) _
  case addAImm8 n => exact h.aluAdd rfl rfl
  case adcAImm8 n => exact h.aluAdd rfl (congrArg Flags.c h.f)
  case subAImm8 n => exact h.aluSub rfl rfl
  case sbcAImm8 n => exact h.aluSub rfl (congrArg Flags.c h.f)
  case andAImm8 n | xorAImm8 n | orAImm8 n => exact h.aluLogic (by rw [h.r]) _
  case incR8 r | decR8 r =>
    obtain ⟨hx, hu⟩ := h.r8Read r
    exact hu.incDecFinish r (by rw [hx])
  case addHlR16 p =>
    have hq : add16 s.r.hl (s.r16Read p) s.f = add16 s'.r.hl (s'.r16Read p) s'.f := by rw [h.r, h.r16Read p, h.f]
    exact ((h.setFlags (congrArg Prod.snd hq)).setRegs (by rw [hq, h.r])).internal _ _
  case addSpE8 n =>
    have hq : spAdd s.sp n = spAdd s'.sp n := by rw [h.sp]
    exact ((h.setSp (congrArg Prod.fst hq)).setFlags (congrArg Prod.snd hq)).internal _ _
  case ldHlSpE8 n =>
    have hq : spAdd s.sp n = spAdd s'.sp n := by rw [h.sp]
    exact ((h.setRegs (by rw [h.r, hq])).setFlags (congrArg Prod.snd hq)).internal _ _

/-- What is refused in one state is refused in every state, and alike (R125, R240). -/
theorem exec_refused_congr {i : Instr} {s : State} {e : Refusal} (h : exec i s = .refused e) (s' : State) :
    exec i s' = .refused e := by
  by_cases hc : i.opClass = .unnamed
  · rw [exec_of_unnamed hc] at h ⊢
    exact h
  · obtain ⟨t, ht⟩ := exec_completes hc s
    rw [ht] at h
    cases h

/-- Settles O20: the same instruction stands at PC, and runs in states that agree after its bytes are fetched. -/
theorem resultsIgnoreCyclesAndEvents : Obligations.ResultsIgnoreCyclesAndEvents := by
  intro s s' h
  obtain ⟨i, hi⟩ := s.exists_next
  have hi' : s'.Next i := hi.congr h.pc.symm h.bus.symm
  rw [hi.step_eq, hi'.step_eq]
  refine ⟨fun t ht => ?_, fun e he => exec_refused_congr he _⟩
  obtain ⟨t', ht'⟩ := exec_completes_of_next ht (afterFetch i.length s')
  exact ⟨t', ht', exec_sameCore (h.afterFetch i.length) ht ht'⟩

end Sys2Proof.Machine
end

section
/-! SUPPORT. What a step is, by the bytes at PC: the instruction that they decode to, its class, and the effect of an
instruction whose bytes stand there (R120, R125). -/

namespace Sys2Proof.Machine

open Sys2Proof.Spec

/-! ## The three endings of a step (R125) -/

/-- Settles O7: the bytes at PC decode to the instruction that a step fetches. -/
theorem stepRunsTheDecodedInstruction : Obligations.StepRunsTheDecodedInstruction := by
  intro s i rest hdec
  have hi : s.Next i := ⟨rest, hdec⟩
  exact hi.step_eq

theorem cycleCount_pos (p : Params) (i : Instr) : 1 ≤ cycleCount p i := by
  cases i <;> simp only [cycleCount] <;> omega

/-- Accesses to the unusable range are no unknown opcodes (R33). -/
theorem Event.IsUnmapped.ne_unknownOpcode {e : Event} (h : e.IsUnmapped) (op : Byte) (a : Word) : e ≠ .unknownOpcode op a := by
  obtain ⟨k, b, rfl, -⟩ := h
  nofun

/-- A byte other than 0 is not read from the unusable range, so that its access records no condition (R60). -/
theorem unmappedEvent_eq_nil_of_byteAt_ne_zero {b : Bus} {a : Word} (h : b.byteAt a ≠ 0) (k : AccessKind) :
    unmappedEvent k a = [] :=
  if_neg fun ha => h (Bus.byteAt_of_unmapped ((b.map_eq_none_iff a).mpr ha))

/-- The opcode 0 is that of `NOP` (R129). -/
theorem cls_of_rowOf_zero {row : OpcodeRow} (h : rowOf 0 = some row) : row.cls = .present := by
  cases h
  rfl

/-- A step of class P records accesses to the unusable range alone: in its fetch and in its instruction (R125, R271). -/
theorem State.Next.records_of_present {s t : State} {i : Instr} (hi : s.Next i) (hc : i.opClass = .present)
    (h : step s = .next t) : Records Event.IsUnmapped s.events t.events := by
  rw [hi.step_eq] at h
  exact (Records.fetchEvents s.events i.length s.pc).trans (exec_records_of_present hc hi.wellFormed h)

/-- Settles O8: the class of the row is that of the instruction it builds, which ends as its class says. -/
theorem stepEndsInOneOfThreeWays : Obligations.StepEndsInOneOfThreeWays := by
  intro s row hrow
  obtain ⟨b2, b3, hi, -⟩ := State.fetchInstr_eq hrow
  have hcls := rowOf_build_opClass hrow b2 b3
  obtain ⟨hop, -⟩ := rowOf_build hrow b2 b3
  generalize row.build (s.bus.byteAt s.pc) b2 b3 = i at *
  rw [← hcls]
  refine ⟨fun hc => ?_, fun hc => ?_, fun hc => ?_⟩
  · obtain ⟨t, ht⟩ := exec_completes_of_present hc (afterFetch i.length s)
    rw [← hi.step_eq] at ht
    obtain ⟨es, hes, hunmapped⟩ := hi.records_of_present hc ht
    obtain ⟨rest, hdec⟩ := hi
    have hcycles : t.cycles = cycleCount s.params i := stepReturnsTheTabledCycles s t i rest hdec ht
    exact ⟨t, es, ht, hcycles ▸ cycleCount_pos _ i, hes, fun op a he => (hunmapped _ he).ne_unknownOpcode op a rfl⟩
  · have hop_ne : s.bus.byteAt s.pc ≠ 0 := fun hzero => by
      simp [hcls, cls_of_rowOf_zero (hzero ▸ hrow)] at hc
    have hfetch : unmappedEvent .read s.pc = [] := unmappedEvent_eq_nil_of_byteAt_ne_zero hop_ne _
    rw [hi.step_eq, exec_of_absent_or_noInstruction hc, hop, length_of_absent_or_noInstruction hc]
    simp [State.raiseUnknownOpcode, State.emit, afterFetch, fetchEvents, hfetch]
  · rw [hi.step_eq, exec_of_unnamed hc, hop]

/-! ## The effect of an instruction -/

/-- The first bytes that the bus shows, up to three, begin the three bytes that a decoder is given. -/
theorem exists_append_of_bytesAt {b : Bus} {a : Word} {bytes : List Byte} (h : bytesAt b a bytes) (hlen : bytes.length ≤ 3) :
    ∃ rest, [b.byteAt a, b.byteAt (a + 1), b.byteAt (a + 2)] = bytes ++ rest := by
  have htwo : a + 1 + 1 = a + 2 := BitVec.add_assoc a 1 1
  match bytes with
  | [] => exact ⟨_, rfl⟩
  | [_] =>
    obtain ⟨rfl, -⟩ := h
    exact ⟨_, rfl⟩
  | [_, _] =>
    obtain ⟨rfl, rfl, -⟩ := h
    exact ⟨_, rfl⟩
  | [_, _, _] =>
    obtain ⟨rfl, rfl, rfl, -⟩ := h
    exact ⟨[], by rw [htwo]; rfl⟩
  | _ :: _ :: _ :: _ :: _ =>
    simp only [List.length_cons] at hlen
    omega

theorem encode_length (i : Instr) : (encode i).length = i.length := Nat.add_comm _ _

theorem encode_length_le (i : Instr) : (encode i).length ≤ 3 := by
  rw [encode, List.length_cons]
  cases i <;> simp [immediates]

/-- Where the bytes of a well-formed instruction stand at PC, it is the next instruction (R90, R105). -/
theorem State.Next.of_bytesAt {s : State} {i : Instr} (hi : i.wellFormed = true) (h : bytesAt s.bus s.pc (encode i)) :
    s.Next i := by
  obtain ⟨rest, hbytes⟩ := exists_append_of_bytesAt h (encode_length_le i)
  exact ⟨rest, hbytes ▸ decodeOfEncodeIsIdentity i rest hi⟩

/-- What `exec` makes of an instruction in every state is its effect, at the bytes it is encoded by (R120). -/
theorem hasEffect_of_exec {i : Instr} {E : State → State} (hi : i.wellFormed = true) (h : ∀ s, exec i s = .next (E s)) :
    HasEffect i (encode i) E := fun s =>
  ⟨h s, fun hbytes => by rw [(State.Next.of_bytesAt hi hbytes).step_eq, encode_length, h]⟩

/-- Settles O32: the one byte of `NOP` is 0x00, and `exec` answers the state it is given. -/
theorem nopEffect : Obligations.NopEffect := hasEffect_of_exec rfl fun _ => rfl

end Sys2Proof.Machine
end

section
/-! SUPPORT. Eight-bit arithmetic and logic (spec/41_alu8.md R140 to R158): the model's adders and its operations on A against
the spec's own, then the whole effect of every ADD, ADC, SUB, SBC, AND, XOR, OR, INC and DEC. -/

namespace Sys2Proof.Machine

open Sys2Proof.Spec

/-! ## The adders (R140, R141) -/

/-- The zero flag over the integers: a result narrowed to a byte is 0 where its remainder is (R8). -/
theorem byte_ofNat_eq_zero_iff (n : Nat) : BitVec.ofNat 8 n = 0 ↔ n % 256 = 0 := by
  simp [← BitVec.toNat_inj]

/-- `add8` is the sum of the spec, result and flags (R140). -/
theorem add8_eq (a x : Byte) (c : Bool) :
    add8 a x c = (BitVec.ofNat 8 (a.toNat + x.toNat + c.toNat), sumFlags a.toNat x.toNat c.toNat) := by
  simp only [add8, sumFlags, byte_ofNat_eq_zero_iff]

/-- The result of `sub8` over the natural numbers: at most 256 is taken away, so that adding 512 first changes no remainder and
leaves nothing below 0 (R141). -/
theorem sub8_fst_eq (a x : Byte) (c : Bool) :
    (sub8 a x c).1 = BitVec.ofNat 8 (a.toNat + 512 - (x.toNat + c.toNat)) := by
  apply BitVec.eq_of_toNat_eq
  have hx := x.isLt
  have hc : c.toNat ≤ 1 := Bool.toNat_le c
  simp only [sub8, BitVec.toNat_ofInt, BitVec.toNat_ofNat]
  omega

/-- `sub8` is the difference of the spec, result and flags (R141). -/
theorem sub8_eq (a x : Byte) (c : Bool) :
    sub8 a x c = (BitVec.ofNat 8 (a.toNat + 512 - (x.toNat + c.toNat)), diffFlags a.toNat x.toNat c.toNat) := by
  simp only [diffFlags, ← byte_ofNat_eq_zero_iff, ← sub8_fst_eq]; rfl

/-- `add8(x, 1, 0)` is the byte one up (R157). -/
theorem add8_one (x : Byte) : add8 x 1 false = (x + 1, sumFlags x.toNat 1 0) := by
  have hres : BitVec.ofNat 8 (x.toNat + 1) = x + 1 := BitVec.eq_of_toNat_eq (by simp)
  rw [add8_eq, ← hres]; rfl

/-- `sub8(x, 1, 0)` is the byte one down (R158). -/
theorem sub8_one (x : Byte) : sub8 x 1 false = (x - 1, diffFlags x.toNat 1 0) := by
  have hres : (sub8 x 1 false).1 = x - 1 := (sub8_fst x 1 false).trans (BitVec.sub_zero _)
  exact Prod.ext hres (by rw [sub8_eq]; rfl)

/-! ## The operations on A, and with the 8-bit operand that is read for them (R142) -/

theorem State.aluAdd_eq_addEffect (s : State) (x : Byte) (c : Bool) : s.aluAdd x c = addEffect x c s := by
  rw [State.aluAdd_eq, add8_eq]; rfl

theorem State.aluSub_eq_subEffect (s : State) (x : Byte) (c : Bool) : s.aluSub x c = subEffect x c s := by
  rw [State.aluSub_eq, sub8_eq]; rfl

theorem State.aluLogic_eq_logicEffect (s : State) (v : Byte) (h : Bool) : s.aluLogic v h = logicEffect v h s := rfl

theorem State.aluAdd_r8Read (s : State) (r : R8) (c : Bool) :
    (s.r8Read r).2.aluAdd (s.r8Read r).1 c = addEffect (operand s r) c (operandRead r s) := by
  rw [State.aluAdd_eq_addEffect, State.r8Read_fst, State.r8Read_snd]

theorem State.aluSub_r8Read (s : State) (r : R8) (c : Bool) :
    (s.r8Read r).2.aluSub (s.r8Read r).1 c = subEffect (operand s r) c (operandRead r s) := by
  rw [State.aluSub_eq_subEffect, State.r8Read_fst, State.r8Read_snd]

theorem State.aluLogic_r8Read (s : State) (r : R8) (v : Byte) (h : Bool) :
    (s.r8Read r).2.aluLogic v h = logicEffect v h (operandRead r s) := by
  rw [State.aluLogic_eq_logicEffect, State.r8Read_snd]

/-- The operand read and written back, with C as it was before both (R157, R158). -/
theorem State.incDecFinish_r8Read (s : State) (r : R8) (q : Byte × Flags) :
    (s.r8Read r).2.incDecFinish r q = { operandWrite r q.1 (operandRead r s) with f := { q.2 with c := s.f.c } } := by
  rw [State.incDecFinish_eq, State.r8Write_eq_operandWrite, State.r8Read_snd_f, State.r8Read_snd]

/-! ## The effect of each instruction -/

/-- Settles O33: `add8` of the operand read, where reading it leaves the carry-in of `ADC` alone. -/
theorem addAndAdcRegisterEffect : Obligations.AddAndAdcRegisterEffect := by
  intro r
  constructor <;> refine hasEffect_of_exec rfl fun s => ?_
  · simp only [exec, execAddAR8, State.aluAdd_r8Read]
  · simp only [exec, execAdcAR8, State.aluAdd_r8Read, State.r8Read_snd_f]

/-- Settles O34: `sub8` of the operand read, where reading it leaves the borrow-in of `SBC` alone. -/
theorem subAndSbcRegisterEffect : Obligations.SubAndSbcRegisterEffect := by
  intro r
  constructor <;> refine hasEffect_of_exec rfl fun s => ?_
  · simp only [exec, execSubAR8, State.aluSub_r8Read]
  · simp only [exec, execSbcAR8, State.aluSub_r8Read, State.r8Read_snd_f]

/-- Settles O35: the logic flags of A and the operand read, where reading it leaves A alone. -/
theorem logicRegisterEffect : Obligations.LogicRegisterEffect := by
  intro r
  refine ⟨?_, ?_, ?_⟩ <;> refine hasEffect_of_exec rfl fun s => ?_
  · simp only [exec, execAndAR8, State.aluLogic_r8Read, State.r8Read_snd_r, State.r8Read_fst]
  · simp only [exec, execXorAR8, State.aluLogic_r8Read, State.r8Read_snd_r, State.r8Read_fst]
  · simp only [exec, execOrAR8, State.aluLogic_r8Read, State.r8Read_snd_r, State.r8Read_fst]

/-- Settles O36: `add8` of the immediate. -/
theorem addAndAdcImmediateEffect : Obligations.AddAndAdcImmediateEffect := by
  intro n
  constructor <;> refine hasEffect_of_exec rfl fun s => ?_
  · simp only [exec, execAddAImm8, State.aluAdd_eq_addEffect]
  · simp only [exec, execAdcAImm8, State.aluAdd_eq_addEffect]

/-- Settles O37: `sub8` of the immediate. -/
theorem subAndSbcImmediateEffect : Obligations.SubAndSbcImmediateEffect := by
  intro n
  constructor <;> refine hasEffect_of_exec rfl fun s => ?_
  · simp only [exec, execSubAImm8, State.aluSub_eq_subEffect]
  · simp only [exec, execSbcAImm8, State.aluSub_eq_subEffect]

/-- Settles O38: the logic flags of A and the immediate. -/
theorem logicImmediateEffect : Obligations.LogicImmediateEffect := by
  intro n
  refine ⟨?_, ?_, ?_⟩ <;> refine hasEffect_of_exec rfl fun s => ?_
  · simp only [exec, execAndAImm8, State.aluLogic_eq_logicEffect]
  · simp only [exec, execXorAImm8, State.aluLogic_eq_logicEffect]
  · simp only [exec, execOrAImm8, State.aluLogic_eq_logicEffect]

/-- Settles O39: the adder of the operand read and 1, its result written back and C restored. -/
theorem incAndDecEffect : Obligations.IncAndDecEffect := by
  intro r
  constructor <;> refine hasEffect_of_exec rfl fun s => ?_
  · simp only [exec, execIncR8, State.incDecFinish_r8Read, State.r8Read_fst, add8_one]
  · simp only [exec, execDecR8, State.incDecFinish_r8Read, State.r8Read_fst, sub8_one]

end Sys2Proof.Machine
end

section
/-! SUPPORT. Sixteen-bit arithmetic (spec/42_alu16.md R170 to R173): the model's pair operand and stack-pointer adder against
the spec's own, then the whole effect of ADD HL, ADD SP and LD HL,SP+e8. -/

namespace Sys2Proof.Machine

open Sys2Proof.Spec

/-! ## The pairs (R13, R22) -/

theorem State.r16Read_eq_pairValue (s : State) (p : R16) : s.r16Read p = pairValue s p := by cases p <;> rfl

/-! ## The stack-pointer adder (R171) -/

/-- Sign extension over the natural numbers: a byte with its top bit set has 0xFF above it (R8). -/
theorem sext16_eq (n : Byte) :
    sext16 n = BitVec.ofNat 16 (if n.toNat < 0x80 then n.toNat else n.toNat + 0xFF00) := by
  apply BitVec.eq_of_toNat_eq
  have hn := n.isLt
  rw [sext16, BitVec.toNat_signExtend, BitVec.toNat_setWidth, BitVec.toNat_ofNat]
  by_cases hpos : n.toNat < 0x80
  · have hmsb : n.msb = false := BitVec.msb_eq_false_iff_two_mul_lt.mpr (by omega)
    simp [hmsb, hpos]
  · have hmsb : n.msb = true := BitVec.msb_eq_true_iff_two_mul_ge.mpr (by omega)
    rw [hmsb, if_pos rfl, if_neg hpos]
    omega

/-- `spadd` is the sum of the spec, result and flags (R171). -/
theorem spAdd_eq (sp : Word) (n : Byte) : spAdd sp n = (spResult sp n, spFlags sp n) := by
  have hres : sp + sext16 n = spResult sp n := by
    rw [sext16_eq, spResult, BitVec.ofNat_add, BitVec.ofNat_toNat, BitVec.setWidth_eq]
  rw [spAdd, hres]; rfl

/-! ## The effect of each instruction -/

/-- Settles O40: `add16` of HL and the pair read, its sum written to HL. -/
theorem addHlEffect : Obligations.AddHlEffect := fun p =>
  hasEffect_of_exec rfl fun s => by
    simp only [exec, execAddHlR16, State.r16Read_eq_pairValue]; rfl

/-- Settles O41: `spadd` of SP and the immediate, its sum written to SP or to HL. -/
theorem stackPointerPlusImmediateEffect : Obligations.StackPointerPlusImmediateEffect := by
  intro n
  constructor <;> refine hasEffect_of_exec rfl fun s => ?_
  · simp only [exec, execAddSpE8, spAdd_eq]; rfl
  · simp only [exec, execLdHlSpE8, spAdd_eq]; rfl

end Sys2Proof.Machine
end

section
/-! SUPPORT. Eight-bit loads (spec/43_load8.md R180 to R186): the model's Memory-mode operand and high page against the spec's
own, then the whole effect of every LD r8, LD through a pair and LDH. -/

namespace Sys2Proof.Machine

open Sys2Proof.Spec

/-! ## The operand forms (R24, R94) -/

theorem State.r16mem_fst (s : State) (p : R16Mem) : (s.r16mem p).1 = memAddress s p := by cases p <;> rfl

theorem State.r16mem_snd (s : State) (p : R16Mem) : (s.r16mem p).2 = memResolve p s := by cases p <;> rfl

@[simp] theorem memResolve_bus (s : State) (p : R16Mem) : (memResolve p s).bus = s.bus := by cases p <;> rfl
@[simp] theorem memResolve_cycles (s : State) (p : R16Mem) : (memResolve p s).cycles = s.cycles := by cases p <;> rfl
@[simp] theorem memResolve_events (s : State) (p : R16Mem) : (memResolve p s).events = s.events := by cases p <;> rfl

/-- No address of the high page wraps around (R78). -/
theorem highAddress_toNat (n : Byte) : (highAddress n).toNat = 0xFF00 + n.toNat := by
  have hn := n.isLt
  rw [highAddress, BitVec.toNat_ofNat, Nat.mod_eq_of_lt (by omega)]

theorem highPage_eq_highAddress (n : Byte) : highPage n = highAddress n :=
  BitVec.eq_of_toNat_eq ((wordOf_toNat 0xFF n).trans (highAddress_toNat n).symm)

/-- The high page lies above the unusable range, so that its accesses record no condition (R51, R52). -/
theorem unmappedEvent_highAddress (k : AccessKind) (n : Byte) : unmappedEvent k (highAddress n) = [] := by
  have hval := highAddress_toNat n
  exact if_neg (by omega)

/-! ## The effect of each instruction -/

/-- Settles O42: the source is read and written to the destination; of the 64 forms only that with both fields `[HL]`, which
is HALT's byte, is something else. -/
theorem loadRegisterEffect : Obligations.LoadRegisterEffect := by
  intro dst src hboth
  refine hasEffect_of_exec (by simpa [Instr.wellFormed] using not_and_or.mp hboth) fun s => ?_
  simp only [exec, execLdR8R8, if_neg hboth, State.r8Write_eq_operandWrite, State.r8Read_fst, State.r8Read_snd]

/-- Settles O43: one write of the 8-bit operand. -/
theorem loadImmediateByteEffect : Obligations.LoadImmediateByteEffect := fun r n =>
  hasEffect_of_exec rfl fun s => by rw [exec, execLdR8Imm8, State.r8Write_eq_operandWrite]

/-- Settles O44: one bus access at the address that HL had, where stepping HL leaves bus, cycles and record alone. -/
theorem loadThroughPairEffect : Obligations.LoadThroughPairEffect := by
  intro p
  constructor <;> refine hasEffect_of_exec rfl fun s => ?_
  · simp only [exec, execLdR16memA, State.busWrite_eq, Bus.accessEvents_eq, State.r16mem_fst, State.r16mem_snd,
      memResolve_bus, memResolve_cycles, memResolve_events]
  · simp only [exec, execLdAR16mem, State.busRead_eq, Bus.accessEvents_eq, State.r16mem_fst, State.r16mem_snd,
      memResolve_bus, memResolve_cycles, memResolve_events, State.setA]

/-- Settles O45: one bus access in the high page, which is mapped. -/
theorem loadHighPageEffect : Obligations.LoadHighPageEffect := by
  intro n
  refine ⟨highPage_eq_highAddress n, ?_, ?_⟩ <;> refine hasEffect_of_exec rfl fun s => ?_
  · rw [exec, execLdhA8A, State.busWrite_eq, Bus.accessEvents_eq, highPage_eq_highAddress, unmappedEvent_highAddress,
      List.append_nil]
  · rw [exec, execLdhAA8, State.busRead_eq, Bus.accessEvents_eq, highPage_eq_highAddress, unmappedEvent_highAddress,
      List.append_nil]
    rfl

end Sys2Proof.Machine
end

section
/-! SUPPORT. Sixteen-bit loads and the stack (spec/44_load16_stack.md R200 to R203): the model's pair operands against the spec's
own, the whole effect of LD r16,imm16, PUSH and POP, and what a POP reads back after a PUSH. -/

namespace Sys2Proof.Machine

open Sys2Proof.Spec

/-! ## The pairs (R13, R17, R22, R23) -/

theorem State.r16Write_eq_pairWrite (s : State) (p : R16) (v : Word) : s.r16Write p v = pairWrite p v s := by cases p <;> rfl

theorem State.r16stkRead_eq_stackValue (s : State) (p : R16Stk) : s.r16stkRead p = stackValue s p := by cases p <;> rfl

@[simp] theorem stackWrite_sp (p : R16Stk) (v : Word) (s : State) : (stackWrite p v s).sp = s.sp := by cases p <;> rfl

/-- A pair in Stack mode reads back what was written, AF with its low nibble cleared (R13, R17). -/
theorem stackValue_stackWrite (p : R16Stk) (v : Word) (s : State) :
    stackValue (stackWrite p v s) p = if p = .af then v &&& 0xFFF0 else v := by
  rw [← State.r16stkWrite_eq_stackWrite, ← State.r16stkRead_eq_stackValue]
  cases p with
  | af => exact s.af_setAf v
  | bc => exact Regs.bc_setBc s.r v
  | de => exact Regs.de_setDe s.r v
  | hl => exact Regs.hl_setHl s.r v

/-! ## The effect of each instruction -/

/-- Settles O46: one write of the pair. -/
theorem loadImmediateWordEffect : Obligations.LoadImmediateWordEffect := fun p l h => by
  have hbytes : encode (.ldR16Imm16 p (h ++ l)) = [0b00#2 ++ p.code ++ 0b0001#4, l, h] := by
    rw [encode, immediates_ldR16Imm16_append]; rfl
  exact hbytes ▸ hasEffect_of_exec rfl fun s => by rw [exec, execLdR16Imm16, State.r16Write_eq_pairWrite]

/-- Settles O47: two pushed bytes, the second at one below SP - 1. -/
theorem pushEffect : Obligations.PushEffect := fun p =>
  hasEffect_of_exec rfl fun s => by
    have hsp : s.sp - 2 = s.sp - 1 - 1 := (BitVec.sub_sub s.sp 1 1).symm
    simp only [exec, execPushR16stk, State.pushByte_eq, Bus.accessEvents_eq, State.r16stkRead_eq_stackValue, hsp]
    rfl

/-- Settles O48: two popped bytes, the second at SP + 1, written to the pair as one word. -/
theorem popEffect : Obligations.PopEffect := fun p =>
  hasEffect_of_exec rfl fun s => by
    have hsp : s.sp + 2 = s.sp + 1 + 1 := (BitVec.add_assoc s.sp 1 1).symm
    simp only [exec, execPopR16stk, State.popByte_eq, Bus.accessEvents_eq, State.r16stkWrite_eq_stackWrite, hsp]
    rfl

/-! ## What is pushed is popped (R203) -/

/-- An offset in an array is even where the address is: every region and every bank begins at an even place (R51, R55). -/
theorem Bus.map_offset_mod_two {b : Bus} {a : Word} {arr : ArrayId} {off : Nat} (h : b.map a = some (arr, off)) :
    off % 2 = a.toNat % 2 := by
  have hb := regionOf_bounds a
  simp only [Bus.map, Region.slot] at h
  generalize regionOf a = g at h hb
  split at h
  · cases h
  · obtain ⟨-, rfl⟩ := Prod.mk.inj (Option.some.inj h)
    have hfirst : g.first % 2 = 0 := by cases g <;> rfl
    have hstride : g.stride % 2 = 0 := by cases g <;> rfl
    rw [Nat.add_mod, Nat.mul_mod, hstride]
    omega

/-- Two adjacent addresses, of which one is mapped, never show the same byte, across the end of a region or of memory too. -/
theorem Bus.map_sub_one_ne {b : Bus} {a : Word} (h : b.map a ≠ none) : b.map (a - 1) ≠ b.map a := by
  intro heq
  obtain ⟨⟨arr, off⟩, hoff⟩ := Option.ne_none_iff_exists'.mp h
  have hodd := Bus.map_offset_mod_two hoff
  have hodd' := Bus.map_offset_mod_two (heq.trans hoff)
  bv_omega

/-- Two bytes stored at adjacent mapped addresses are both read back (R30, R61). -/
theorem Bus.byteAt_store_store_sub_one {s : State} (hinv : s.Inv) {a : Word} (h : s.bus.map a ≠ none)
    (h' : s.bus.map (a - 1) ≠ none) (v w : Byte) :
    ((s.bus.store a v).store (a - 1) w).byteAt a = v ∧ ((s.bus.store a v).store (a - 1) w).byteAt (a - 1) = w := by
  have hwf' := Bus.arraysWf_store hinv a v
  obtain ⟨-, -, -, hwf⟩ := hinv
  constructor
  · rw [Bus.byteAt_store hwf', Bus.map_store, Bus.map_store, if_neg fun ⟨hsame, _⟩ => Bus.map_sub_one_ne h hsame,
      Bus.byteAt_store hwf, if_pos ⟨rfl, h⟩]
  · rw [Bus.byteAt_store hwf', Bus.map_store, if_pos ⟨rfl, h'⟩]

/-- Settles O51: `popEffect` of the state that `pushEffect` gives reads back the two bytes stored, and they are the pair. -/
theorem pushThenPopCopiesThePair : Obligations.PushThenPopCopiesThePair := by
  intro p p' s t hinv hhi hlo ht
  obtain ⟨hpush, -⟩ := pushEffect p s
  obtain rfl := Host.Outcome.next.inj (hpush.symm.trans ht)
  obtain ⟨hpop, -⟩ := popEffect p' _
  refine ⟨_, hpop, (stackWrite_sp ..).trans (BitVec.sub_add_cancel s.sp 2), ?_⟩
  have hlow : s.sp - 2 = s.sp - 1 - 1 := (BitVec.sub_sub s.sp 1 1).symm
  have hhigh : s.sp - 1 - 1 + 1 = s.sp - 1 := BitVec.sub_add_cancel (s.sp - 1) 1
  rw [hlow] at hlo
  obtain ⟨hbyteHi, hbyteLo⟩ :=
    Bus.byteAt_store_store_sub_one hinv hhi hlo (hi (stackValue s p)) (lo (stackValue s p))
  have hpair : hi (stackValue s p) ++ lo (stackValue s p) = stackValue s p := wordOf_hiByte_loByte _
  simp only [stackValue_stackWrite, hlow, hhigh, hbyteHi, hbyteLo, hpair]

end Sys2Proof.Machine
end

section
/-! SUPPORT. Opcodes without a meaning (spec/45_absent_unnamed.md R210 to R255): the spec's three lists against the model's
encoder and classes, and what `exec` and a step make of each listed opcode. -/

namespace Sys2Proof.Machine

open Sys2Proof.Spec

/-! ## The listed opcodes -/

/-- Each listed opcode is the only byte of its instruction: no immediate is fetched after it (R210, R240). -/
theorem encode_of_mem_listed : ∀ p ∈ absentOpcodes ++ noInstructionOpcodes ++ unnamedOpcodes,
    p.1.wellFormed = true ∧ encode p.1 = [p.2] := by decide

theorem opClass_of_mem_absent_or_noInstruction : ∀ p ∈ absentOpcodes ++ noInstructionOpcodes,
    p.1.opClass = .absent ∨ p.1.opClass = .noInstruction := by decide

theorem opClass_of_mem_unnamed : ∀ p ∈ unnamedOpcodes, p.1.opClass = .unnamed := by decide

theorem opcode_of_encode_eq_singleton {i : Instr} {op : Byte} (h : encode i = [op]) : opcode i = op :=
  (List.cons.inj h).1

/-! ## Their outcomes -/

/-- Settles O49: `exec` of the instruction raises `UnknownOpcode` with its opcode, and that opcode is its only byte. -/
theorem classAAndIRecordUnknownOpcode : Obligations.ClassAAndIRecordUnknownOpcode := by
  intro p hp
  obtain ⟨hwf, henc⟩ := encode_of_mem_listed p (List.mem_append_left _ hp)
  have hop : opcode p.1 = p.2 := opcode_of_encode_eq_singleton henc
  refine henc ▸ hasEffect_of_exec hwf fun s => ?_
  rw [exec_of_absent_or_noInstruction (opClass_of_mem_absent_or_noInstruction p hp), hop]
  rfl

/-- Settles O50: `exec` refuses the instruction, and a step at its one byte is `exec` after the fetch of that byte. -/
theorem classUIsRefused : Obligations.ClassUIsRefused := by
  intro p hp s
  obtain ⟨hwf, henc⟩ := encode_of_mem_listed p (List.mem_append_right _ hp)
  have hexec (s : State) : exec p.1 s = .refused (.notSpecified p.2) := by
    rw [exec_of_unnamed (opClass_of_mem_unnamed p hp), opcode_of_encode_eq_singleton henc]
  refine ⟨hexec s, fun hbyte => ?_⟩
  have hbytes : bytesAt s.bus s.pc (encode p.1) := henc ▸ ⟨hbyte, trivial⟩
  rw [(State.Next.of_bytesAt hwf hbytes).step_eq, hexec]

end Sys2Proof.Machine
end
